-- ==== Sys2Proof/Word.lean ====
section
/-! DEFINITION. The Word of the hardware (spec 00_scope R7) and the sixteen-Word array (10_state R21). -/

namespace Sys2Proof

/-- A Word: 32 bits, and equally the unsigned integer they spell (R7). -/
abbrev Word := BitVec 32

/-- A sequence of exactly sixteen Words, indices 0 to 15 (R5 `STATE_WORDS`, R21, R64). -/
abbrev Words16 := Vector Word 16

end Sys2Proof
end

