-- ==== Sys2Proof/Config.lean ====
section
/-! DEFINITION. What the spec leaves open: the contents of S and KS after a reset (free values without a
body, R35, R180) and the five latencies (R6, R190). -/

namespace Sys2Proof

/-- What `S[0..15]` holds after the reset numbered by the argument: "unspecified" (R35, R180; U14 "any value").
DESIGN CHOICE (log entry 3): a free value; nothing in Lean can evaluate it. -/
opaque Config.unspecifiedS : Nat → Words16

/-- What `KS[0..15]` holds after the reset numbered by the argument: "unspecified" (R29, R35; U15 "any value").
DESIGN CHOICE (log entry 4): a free value. -/
opaque Config.unspecifiedKS : Nat → Words16

/-- The open latencies, in clock cycles from a command's acceptance to its response (R6, R70). "The model takes
them as arguments and no rule reads them": only the clocked view (Machine/Clock.lean) does. DESIGN CHOICE (log entry 12). -/
structure Config.Latencies where
  /-- `LAT_INIT` -/
  init : Nat
  /-- `LAT_PROC_FIRST`: a PROC that opens a chunk -/
  procFirst : Nat
  /-- `LAT_PROC_NEXT`: any other successful PROC -/
  procNext : Nat
  /-- `LAT_RDCTR` -/
  rdctr : Nat
  /-- `LAT_ERR`: any command answered with an error -/
  err : Nat
deriving DecidableEq, Repr

end Sys2Proof
end

