-- ==== Sys2Proof/Syntax.lean ====
section
/-! DEFINITION. The operations of the hardware, one constructor per row of spec/opcode_table.json (R60, R66).
A field a command ignores (R71) is no operand of its constructor. -/

namespace Sys2Proof

/-- One operation of one module (R60): the operands are the fields that operation reads. -/
inductive Instr where
  /-- ADD (R81), format W -/
  | add (a b : Word)
  /-- XOR (R82), format W -/
  | xor (a b : Word)
  /-- ROTL (R83), format R; the amount is a 5-bit port (R62), so no amount of 32 or more exists (U3) -/
  | rotl (a : Word) (n : BitVec 5)
  /-- ZERO (R84), format K -/
  | zero
  /-- ONE (R85), format K -/
  | one
  /-- QR (R100), format Q -/
  | qr (a b c d : Word)
  /-- BLOCK (R110), format B -/
  | block (x : Words16)
  /-- INIT (R132), format E, opcode 00 -/
  | init (key : BitVec 256) (nonce : BitVec 96)
  /-- PROC (R133), format E, opcode 01 -/
  | proc (data : Word) (last : Bool)
  /-- RDCTR (R134), format E, opcode 10 -/
  | rdctr
  /-- RSVD (R135), format E, the reserved opcode 11 -/
  | rsvd
deriving DecidableEq, Repr

end Sys2Proof
end

