-- ==== Sys2Proof/WellFormed.lean ====
section
/-! DEFINITION. Well-formedness. Every value an operand's type can hold is a legal operand (R69, R163: nothing is
reserved but opcode 11, which is a constructor of its own), so every instruction is well formed. The one check
the spec asks for is on the index groups of QRS: four pairwise distinct slots (R101, R104, U2). -/

namespace Sys2Proof

/-- The four slots of a QRS in the roles `a, b, c, d` (R101). -/
structure IndexGroup where
  a : Fin 16
  b : Fin 16
  c : Fin 16
  d : Fin 16
deriving DecidableEq, Repr

/-- "The four indices must be pairwise distinct" (R101); QRS on any other group has no meaning (R104, U2). -/
def IndexGroup.wf (g : IndexGroup) : Bool :=
  g.a != g.b && g.a != g.c && g.a != g.d && g.b != g.c && g.b != g.d && g.c != g.d

/-- R69: every value of every operand port is legal, and the ports' widths are the operands' types. DEDUCED
(log entry 9). -/
def Instr.wf : Instr → Bool
  | .add _ _ => true
  | .xor _ _ => true
  | .rotl _ _ => true
  | .zero => true
  | .one => true
  | .qr _ _ _ _ => true
  | .block _ => true
  | .init _ _ => true
  | .proc _ _ => true
  | .rdctr => true
  | .rsvd => true

end Sys2Proof
end

