-- ==== Sys2Proof/Decode.lean ====
section
/-! DEFINITION. The ports of the five modules (R61 to R66), decoding what is presented on them into an
operation, the encoder back, and the select codes of spec/opcode_table.json. Decoding is total: format W uses
both its codes, format E all four (the reserved one decodes to RSVD), the others have no select field (R69). -/

namespace Sys2Proof

/-- Format E (R66): the command tuple sampled in the cycle of acceptance, every field at its port's width (R65). -/
structure Command where
  /-- `cmd_op` -/
  op : BitVec 2
  /-- `cmd_last` -/
  last : BitVec 1
  /-- `cmd_data` -/
  data : Word
  /-- `cmd_key` -/
  key : BitVec 256
  /-- `cmd_nonce` -/
  nonce : BitVec 96
deriving DecidableEq, Repr

/-- The operand ports of one module, one constructor per module (R60). The wired constants of format K have no
port; the two constructors say which wire is looked at. DESIGN CHOICE (log entry 8). -/
inductive Ports where
  /-- `word_add_xor`: `op`, `a`, `b` (R61) -/
  | wordAddXor (op : BitVec 1) (a b : Word)
  /-- `word_rotate`: `a`, `n` (R62) -/
  | wordRotate (a : Word) (n : BitVec 5)
  /-- the wired `zero()` (R84) -/
  | wiredZero
  /-- the wired `one()` (R85) -/
  | wiredOne
  /-- `chacha20_quarter_round`: `a_i`, `b_i`, `c_i`, `d_i` (R63) -/
  | quarterRound (a b c d : Word)
  /-- `chacha20_block_function`: `state_i[0..15]` (R64) -/
  | blockFunction (stateI : Words16)
  /-- `chacha20_stream_cipher_engine`: a command (R65, R66) -/
  | engine (c : Command)
deriving DecidableEq, Repr

/-- The opcode map of format E (R66). Fields a command does not read are dropped (R71). -/
def decodeCommand (c : Command) : Instr :=
  if c.op = 0b00#2 then .init c.key c.nonce
  else if c.op = 0b01#2 then .proc c.data (c.last == 1#1)
  else if c.op = 0b10#2 then .rdctr
  else .rsvd

/-- The operation presented on a module's ports (R60 to R66). -/
def decode : Ports → Instr
  | .wordAddXor op a b => if op = 0#1 then .add a b else .xor a b
  | .wordRotate a n => .rotl a n
  | .wiredZero => .zero
  | .wiredOne => .one
  | .quarterRound a b c d => .qr a b c d
  | .blockFunction x => .block x
  | .engine c => decodeCommand c

/-- What to present for an operation (R60 to R66). A field the command ignores is presented as zeros; any other
value would do as well (R71). -/
def encode : Instr → Ports
  | .add a b => .wordAddXor 0#1 a b
  | .xor a b => .wordAddXor 1#1 a b
  | .rotl a n => .wordRotate a n
  | .zero => .wiredZero
  | .one => .wiredOne
  | .qr a b c d => .quarterRound a b c d
  | .block x => .blockFunction x
  | .init key nonce => .engine { op := 0b00#2, last := 0, data := 0, key := key, nonce := nonce }
  | .proc data last => .engine { op := 0b01#2, last := BitVec.ofBool last, data := data, key := 0, nonce := 0 }
  | .rdctr => .engine { op := 0b10#2, last := 0, data := 0, key := 0, nonce := 0 }
  | .rsvd => .engine { op := 0b11#2, last := 0, data := 0, key := 0, nonce := 0 }

/-- The number on a format's select field: 1 bit for W, 2 bits for E, none elsewhere (R60). -/
def selectCode : Ports → Nat
  | .wordAddXor op _ _ => op.toNat
  | .wordRotate _ _ => 0
  | .wiredZero => 0
  | .wiredOne => 0
  | .quarterRound _ _ _ _ => 0
  | .blockFunction _ => 0
  | .engine c => c.op.toNat

/-- `match` and `mask` of the operation's row in spec/opcode_table.json, "numbers over that format's select field
alone" (R60). -/
def tableMatchMask : Instr → Nat × Nat
  | .add _ _ => (0x0, 0x1)
  | .xor _ _ => (0x1, 0x1)
  | .rotl _ _ => (0x0, 0x0)
  | .zero => (0x0, 0x0)
  | .one => (0x0, 0x0)
  | .qr _ _ _ _ => (0x0, 0x0)
  | .block _ => (0x0, 0x0)
  | .init _ _ => (0x0, 0x3)
  | .proc _ _ => (0x1, 0x3)
  | .rdctr => (0x2, 0x3)
  | .rsvd => (0x3, 0x3)

/-- The ports a number of the opcode table stands for. The table numbers the SELECT FIELD only, and the numbers of
formats W and E overlap (ADD and INIT are both 0, XOR and PROC both 1): the width tells them apart, one bit being
format W and anything wider format E. With no select bit the number names no module: none. Operand fields are zeros.
DESIGN CHOICE (log entry 7). -/
def tablePorts (nbits w : Nat) : Option Ports :=
  if 2 ^ nbits ≤ w then none
  else if nbits = 0 then none
  else if nbits = 1 then some (.wordAddXor (BitVec.ofNat 1 w) 0 0)
  else some (.engine { op := BitVec.ofNat 2 w, last := 0, data := 0, key := 0, nonce := 0 })

/-- The operation the decoder reads from a number of the opcode table (see `tablePorts`). -/
def decodeTableWord (nbits w : Nat) : Option Instr :=
  (tablePorts nbits w).map decode

end Sys2Proof
end

