-- ==== Sys2Proof/Machine/State.lean ====
section
/-! DEFINITION. The state of one instance (R20: S, keyed, pos, KS and nothing else), with the sequence of events
the host presents and the sequence of outputs given, which R70 makes the model's input and output. Plain data. -/

namespace Sys2Proof.Machine

/-- The response statuses (R68, R161). The code 11 "is never produced", so no constructor stands for it (U16). -/
inductive Status where
  /-- code 00: the command did what its rule says -/
  | ok
  /-- code 01: PROC or RDCTR while `keyed = 0` (R162) -/
  | errNotInit
  /-- code 10: the reserved opcode (R163) -/
  | errIllegalCmd
deriving DecidableEq, Repr

/-- A response `(rsp_status, rsp_data)` (R68). -/
structure Response where
  status : Status
  data : Word
deriving DecidableEq, Repr

/-- What an operation gives at its module's output ports (R61 to R65). -/
inductive Output where
  /-- `y` of `word_add_xor` or `word_rotate`, or a wired constant -/
  | word (y : Word)
  /-- `a_o, b_o, c_o, d_o` of `chacha20_quarter_round` -/
  | quad (a b c d : Word)
  /-- `block_o[0..15]` of `chacha20_block_function` -/
  | block (b : Words16)
  /-- the engine's response -/
  | rsp (r : Response)
deriving DecidableEq, Repr

/-- What the host can do to the hardware (R70, R180, R181). DESIGN CHOICE (log entry 1): the events wait in
`State.inputs`, since R70's model "takes the sequence of accepted commands (and reset events) as its input". -/
inductive Event where
  /-- operands or a command are presented at a module's ports, and accepted -/
  | present (p : Ports)
  /-- one or more clock edges with `rst = 1` (R180) -/
  | reset
  /-- a command is accepted and `rst = 1` is sampled before its response (R181); DEDUCED (log entry 11) -/
  | resetInFlight (c : Command)
deriving DecidableEq, Repr

/-- Why the machine would stop with a fault. It has NO constructor: the spec has no state in which the engine is
stuck, and an error is a response after which the machine goes on (R160, R191). -/
inductive Fault where
deriving DecidableEq, Repr

/-- Why the machine would refuse an operation. -/
inductive Refusal where
  /-- An operation without a meaning yet. Nothing raises it: every operation has its meaning. Safe. -/
  | notModelled (mnemonic : String)
deriving DecidableEq, Repr

/-- The state of the machine. -/
@[ext]
structure State where
  /-- the sixteen-Word state: 0 to 3 constants, 4 to 11 key, 12 counter, 13 to 15 nonce (R21) -/
  S : Words16
  /-- 1 when an INIT has constructed S since the last reset (R27) -/
  keyed : Bool
  /-- the index, within the current chunk, of the next input word (R28) -/
  pos : Fin 16
  /-- the keystream block of the open chunk, hidden (R29) -/
  KS : Words16
  /-- the model's own: how many resets there have been; it numbers the free values of S and KS (log entry 5) -/
  resets : Nat
  /-- the model's own: the events the host has lined up, next first (log entry 1) -/
  inputs : List Event
  /-- the model's own: the outputs given, oldest first; no rule reads it (log entry 2) -/
  outs : List Output
deriving DecidableEq, Repr

/-- The machine right after reset (R35, R180): `keyed = 0`, `pos = 0`, S and KS unspecified.
DESIGN CHOICE (log entries 1 to 5, 16) for what the spec gives no value. -/
def State.reset : State :=
  { S := Config.unspecifiedS 0
    keyed := false
    pos := 0
    KS := Config.unspecifiedKS 0
    resets := 0
    inputs := []
    outs := [] }

end Sys2Proof.Machine
end

