-- ==== Sys2Proof/Machine/Ops.lean ====
section
/-! DEFINITION. The named operations on the state: reading and writing S and KS, giving an output, giving a
response, raising an error, reset, and taking an event. Raising an error is this hardware's whole exception
entry (R160, R167: nothing is saved, no control is transferred); there is no return from it (R167). -/

namespace Sys2Proof.Machine

/-- `S[i]` (R8, R40). -/
def readS (s : State) (i : Fin 16) : Word := s.S[i]

/-- `S[i] <- v` (R8, R40). -/
def writeS (i : Fin 16) (v : Word) (s : State) : State := { s with S := s.S.set i v }

/-- All of S written at once, as INIT does (R34, R132). -/
def loadS (x : Words16) (s : State) : State := { s with S := x }

/-- `KS[i]` (R29). -/
def readKS (s : State) (i : Fin 16) : Word := s.KS[i]

/-- `KS <- x` (R29, R133). -/
def loadKS (x : Words16) (s : State) : State := { s with KS := x }

/-- `keyed <- 1` (R27): INIT is its only writer but for reset. -/
def setKeyed (s : State) : State := { s with keyed := true }

/-- `pos <- v` (R8, R28). -/
def setPos (v : Fin 16) (s : State) : State := { s with pos := v }

/-- An operation's result appears at its module's output (R61 to R64); it is the newest of `outs`. -/
def emit (o : Output) (s : State) : State := { s with outs := s.outs ++ [o] }

/-- `respond(status, data)`: the command's one response (R8, R68). -/
def respond (st : Status) (data : Word) (s : State) : State := emit (.rsp { status := st, data := data }) s

/-- `raise <Error>` (R8, R160, R165): the response carries the error's status and `rsp_data = 0`, and S, KS, keyed
and pos are not written. -/
def raiseError (st : Status) (s : State) : State := respond st 0x00000000#32 s

/-- The code of a status on `rsp_status` (R68). -/
def statusCode : Status → BitVec 2
  | .ok => 0b00#2
  | .errNotInit => 0b01#2
  | .errIllegalCmd => 0b10#2

/-- Reset (R180): `keyed = 0`, `pos = 0`, S and KS take new unspecified contents; no output is given. The free
values of the new reset are those with the next number (log entries 3, 4, 5). -/
def resetEngine (s : State) : State :=
  { s with
    S := Config.unspecifiedS (s.resets + 1)
    keyed := false
    pos := 0
    KS := Config.unspecifiedKS (s.resets + 1)
    resets := s.resets + 1 }

/-- The rest of the host's events after one is taken (R47, R50: a command is not kept). -/
def setInputs (es : List Event) (s : State) : State := { s with inputs := es }

/-- An event put in front of those waiting, so that it is taken next. -/
def pushInput (e : Event) (s : State) : State := { s with inputs := e :: s.inputs }

end Sys2Proof.Machine
end

