-- ==== Sys2Proof/Machine/WordAlgebra.lean ====
section
/-! DEFINITION. Modules word_add_xor and word_rotate and the wired constants (spec 40_word_algebra): the five
Word operations as functions, and the meanings of ADD, XOR, ROTL, ZERO, ONE. None reads or writes the engine's
state (R80). -/

namespace Sys2Proof.Machine

/-- `a +32 b`: the sum modulo 2^32, the carry dropped (R81). -/
def add32 (a b : Word) : Word := a + b

/-- `a ^ b`: bitwise exclusive-or (R82). -/
def xor32 (a b : Word) : Word := a ^^^ b

/-- `rotl32(a, n)`: circular left rotation, 0 ≤ n ≤ 31, n = 0 the identity (R83). -/
def rotl32 (a : Word) (n : BitVec 5) : Word :=
  if n = 0 then a else (a <<< n.toNat) ||| (a >>> (32 - n.toNat))

/-- The wired `zero()` (R84). -/
def zeroWord : Word := 0x00000000#32

/-- The wired `one()` (R85). -/
def oneWord : Word := 0x00000001#32

/-- ADD (R81). -/
def execAdd (a b : Word) (s : State) : Host.Outcome State Fault Refusal :=
  .next (emit (.word (add32 a b)) s)

/-- XOR (R82). -/
def execXor (a b : Word) (s : State) : Host.Outcome State Fault Refusal :=
  .next (emit (.word (xor32 a b)) s)

/-- ROTL (R83). -/
def execRotl (a : Word) (n : BitVec 5) (s : State) : Host.Outcome State Fault Refusal :=
  .next (emit (.word (rotl32 a n)) s)

/-- ZERO (R84). -/
def execZero (s : State) : Host.Outcome State Fault Refusal :=
  .next (emit (.word zeroWord) s)

/-- ONE (R85). -/
def execOne (s : State) : Host.Outcome State Fault Refusal :=
  .next (emit (.word oneWord) s)

end Sys2Proof.Machine
end

