-- ==== Sys2Proof/Machine/QuarterRound.lean ====
section
/-! DEFINITION. Module chacha20_quarter_round (spec 41_quarter_round): QR on four Words, QRS on four slots of a
sixteen-Word array, and the meaning of QR. -/

namespace Sys2Proof.Machine

/-- The four Words of a quarter-round in their roles (R63, R100). -/
structure Quad where
  a : Word
  b : Word
  c : Word
  d : Word
deriving DecidableEq, Repr

/-- QR (R100): the source's twelve steps, each consuming the result of the step before it; the rotation amounts
are 16, 12, 8, 7 in that order (R102). -/
def quarterRound (x : Quad) : Quad :=
  let a1 := add32 x.a x.b
  let d1 := xor32 x.d a1
  let d2 := rotl32 d1 16#5
  let c1 := add32 x.c d2
  let b1 := xor32 x.b c1
  let b2 := rotl32 b1 12#5
  let a2 := add32 a1 b2
  let d3 := xor32 d2 a2
  let d4 := rotl32 d3 8#5
  let c2 := add32 c1 d4
  let b3 := xor32 b2 c2
  let b4 := rotl32 b3 7#5
  { a := a2, b := b4, c := c2, d := d4 }

/-- The four slots of an array a group names, read together (R101). -/
def readGroup (g : IndexGroup) (x : Words16) : Quad :=
  { a := x[g.a], b := x[g.b], c := x[g.c], d := x[g.d] }

/-- The four slots of an array written; the other twelve unchanged (R101). -/
def writeGroup (g : IndexGroup) (q : Quad) (x : Words16) : Words16 :=
  (((x.set g.a q.a).set g.b q.b).set g.c q.c).set g.d q.d

/-- QRS (R101): all four reads before any write. -/
def qrs (g : IndexGroup) (x : Words16) : Words16 := writeGroup g (quarterRound (readGroup g x)) x

/-- QR (R100), on the four operand ports. -/
def execQr (a b c d : Word) (s : State) : Host.Outcome State Fault Refusal :=
  let q := quarterRound { a := a, b := b, c := c, d := d }
  .next (emit (.quad q.a q.b q.c q.d) s)

end Sys2Proof.Machine
end

