-- ==== Sys2Proof/Machine/BlockFunction.lean ====
section
/-! DEFINITION. Module chacha20_block_function (spec 42_block_function): COLPASS, DIAGPASS, DROUND, ROUNDS,
FEEDFWD, BLOCK as functions, and the meaning of BLOCK. -/

namespace Sys2Proof.Machine

/-- The index groups of the column pass, in the source's order (R111). -/
def columnGroups : List IndexGroup :=
  [⟨0, 4, 8, 12⟩, ⟨1, 5, 9, 13⟩, ⟨2, 6, 10, 14⟩, ⟨3, 7, 11, 15⟩]

/-- The index groups of the diagonal pass, in the source's order (R112). -/
def diagonalGroups : List IndexGroup :=
  [⟨0, 5, 10, 15⟩, ⟨1, 6, 11, 12⟩, ⟨2, 7, 8, 13⟩, ⟨3, 4, 9, 14⟩]

/-- A pass: the quarter-rounds of its groups, one after the other (R111, R112, R118). -/
def groupPass (gs : List IndexGroup) (w : Words16) : Words16 := gs.foldl (fun x g => qrs g x) w

/-- COLPASS (R111). -/
def colPass (w : Words16) : Words16 := groupPass columnGroups w

/-- DIAGPASS (R112). -/
def diagPass (w : Words16) : Words16 := groupPass diagonalGroups w

/-- DROUND (R113): the column pass first, then the diagonal pass. -/
def doubleRound (w : Words16) : Words16 := diagPass (colPass w)

/-- The double-round applied `n` times in succession (R114). -/
def doubleRounds : Nat → Words16 → Words16
  | 0, w => w
  | n + 1, w => doubleRounds n (doubleRound w)

/-- ROUNDS (R114): exactly 10 double-rounds, not configurable (R117, C1). -/
def rounds (w : Words16) : Words16 := doubleRounds 10 w

/-- FEEDFWD (R115): word by word, the post-mixing array plus the original state. -/
def feedForward (w x0 : Words16) : Words16 := w.zipWith add32 x0

/-- BLOCK (R110): one keystream block of an input state; the input itself is not changed (R116). -/
def block (x0 : Words16) : Words16 := feedForward (rounds x0) x0

/-- BLOCK (R110), on the operand port `state_i`. -/
def execBlock (x : Words16) (s : State) : Host.Outcome State Fault Refusal :=
  .next (emit (.block (block x)) s)

end Sys2Proof.Machine
end

