-- ==== Sys2Proof/Machine/Flags.lean ====
section
/-! DEFINITION. There are no flags and no condition codes (R32). What a command computes for the status fields
stands here: when a chunk ends, and where `pos` goes (R28, R133). -/

namespace Sys2Proof.Machine

/-- "`pos = 15` or `cmd_last = 1`": the Word at `p` is the last of its chunk (R133). -/
def endsChunk (p : Fin 16) (last : Bool) : Bool := p == 15 || last

/-- `pos` after a successful PROC at `p`: 0 at a chunk's end, else `p + 1` (R28, R133). The 15 is replaced by 0
explicitly, not by an adder's wrap (R87). -/
def nextPos (p : Fin 16) (last : Bool) : Fin 16 :=
  if endsChunk p last then 0 else p + 1

end Sys2Proof.Machine
end

