-- ==== Sys2Proof/Machine/Operands.lean ====
section
/-! DEFINITION. Operand assembly (R67) and the fixed Words: how the key and nonce fields are split into Words,
and the constant words (R22). -/

namespace Sys2Proof.Machine

/-- `K[i] = cmd_key[255 - 32*i : 224 - 32*i]`, i = 0..7 (R23, R67): most-significant Word first. -/
def keyWord (key : BitVec 256) (i : Fin 8) : Word := key.extractLsb' (224 - 32 * i.val) 32

/-- `N[i] = cmd_nonce[95 - 32*i : 64 - 32*i]`, i = 0..2 (R25, R67). -/
def nonceWord (nonce : BitVec 96) (i : Fin 3) : Word := nonce.extractLsb' (64 - 32 * i.val) 32

/-- A Word from four bytes, the first in bits 7:0 (R22 "little-endian words"). -/
def littleEndianWord (b0 b1 b2 b3 : BitVec 8) : Word := b3 ++ b2 ++ b1 ++ b0

/-- `S[0]`: "expa" (R22). The character codes are PRESUMED general knowledge, the spec's own G1 (log entry 10). -/
def constWord0 : Word := littleEndianWord 0x65 0x78 0x70 0x61
/-- `S[1]`: "nd 3" (R22). -/
def constWord1 : Word := littleEndianWord 0x6e 0x64 0x20 0x33
/-- `S[2]`: "2-by" (R22). -/
def constWord2 : Word := littleEndianWord 0x32 0x2d 0x62 0x79
/-- `S[3]`: "te k" (R22). -/
def constWord3 : Word := littleEndianWord 0x74 0x65 0x20 0x6b

end Sys2Proof.Machine
end

