-- ==== Sys2Proof/Machine/StreamEngine.lean ====
section
/-! DEFINITION. Module chacha20_stream_cipher_engine (spec 43_stream_engine): the meanings of INIT, PROC, RDCTR
and the reserved code. An error is a response of the command, and the machine goes on (R160). -/

namespace Sys2Proof.Machine

/-- The state INIT constructs from a key and a nonce (R21, R132). -/
def constructedState (key : BitVec 256) (nonce : BitVec 96) : Words16 :=
  #v[constWord0, constWord1, constWord2, constWord3,
     keyWord key 0, keyWord key 1, keyWord key 2, keyWord key 3,
     keyWord key 4, keyWord key 5, keyWord key 6, keyWord key 7,
     zeroWord, nonceWord nonce 0, nonceWord nonce 1, nonceWord nonce 2]

/-- INIT (R132): a new Session in any state; an open chunk is abandoned, and KS is left as it was (R34, log
entry 6). -/
def initEngine (key : BitVec 256) (nonce : BitVec 96) (s : State) : State :=
  respond .ok 0x00000000#32 (setPos 0 (setKeyed (loadS (constructedState key nonce) s)))

/-- Step 1 of a PROC (R133): at `pos = 0` a chunk is opened with a fresh keystream block over the current S. -/
def openChunk (s : State) : State := if s.pos = 0 then loadKS (block s.S) s else s

/-- "`S[12] <- S[12] +32 0x00000001`" (R133): a wrap gives 0 and no flag (R138). -/
def incrementCounter (s : State) : State := writeS 12 (add32 (readS s 12) oneWord) s

/-- Step 3 of a PROC (R133): at a chunk's end the counter is incremented; `pos` goes on or back to 0. -/
def advanceChunk (last : Bool) (s : State) : State :=
  setPos (nextPos s.pos last) (if endsChunk s.pos last then incrementCounter s else s)

/-- A PROC on a constructed state (R133): open, XOR, advance, respond. -/
def procWord (data : Word) (last : Bool) (s : State) : State :=
  let s1 := openChunk s
  respond .ok (xor32 data (readKS s1 s1.pos)) (advanceChunk last s1)

/-- INIT (R132), opcode 00. -/
def execInit (key : BitVec 256) (nonce : BitVec 96) (s : State) : Host.Outcome State Fault Refusal :=
  .next (initEngine key nonce s)

/-- PROC (R133), opcode 01: `keyed` is tested before anything else (R164). -/
def execProc (data : Word) (last : Bool) (s : State) : Host.Outcome State Fault Refusal :=
  .next (if s.keyed then procWord data last s else raiseError .errNotInit s)

/-- RDCTR (R134), opcode 10. -/
def execRdctr (s : State) : Host.Outcome State Fault Refusal :=
  .next (if s.keyed then respond .ok (readS s 12) s else raiseError .errNotInit s)

/-- RSVD (R135), the reserved opcode 11: the error whether keyed or not (R164). -/
def execRsvd (s : State) : Host.Outcome State Fault Refusal :=
  .next (raiseError .errIllegalCmd s)

end Sys2Proof.Machine
end

