-- ==== Sys2Proof/Machine/Dispatch.lean ====
section
/-! DEFINITION. The meaning of every operation: one arm per constructor of Instr, each one call. -/

namespace Sys2Proof.Machine

def exec (i : Instr) (s : State) : Host.Outcome State Fault Refusal :=
  match i with
  | .add a b => Sys2Proof.Machine.execAdd a b s
  | .xor a b => Sys2Proof.Machine.execXor a b s
  | .rotl a n => Sys2Proof.Machine.execRotl a n s
  | .zero => Sys2Proof.Machine.execZero s
  | .one => Sys2Proof.Machine.execOne s
  | .qr a b c d => Sys2Proof.Machine.execQr a b c d s
  | .block x => Sys2Proof.Machine.execBlock x s
  | .init key nonce => Sys2Proof.Machine.execInit key nonce s
  | .proc data last => Sys2Proof.Machine.execProc data last s
  | .rdctr => Sys2Proof.Machine.execRdctr s
  | .rsvd => Sys2Proof.Machine.execRsvd s

end Sys2Proof.Machine
end

