-- ==== Sys2Proof/Machine/Step.lean ====
section
/-! DEFINITION. One step: the next event of the host is taken and acted on (R47, R70). With no event the engine
is idle and keeps its state (R171, R191). -/

namespace Sys2Proof.Machine

/-- One step of the machine. A presented operation is decoded and executed; a reset resets the engine (R180); a
command whose response a reset replaces is abandoned, and the state is that of a reset (R181). -/
def step (s : State) : Host.Outcome State Fault Refusal :=
  match s.inputs with
  | [] => .next s
  | .present p :: rest => exec (decode p) (setInputs rest s)
  | .reset :: rest => .next (resetEngine (setInputs rest s))
  | .resetInFlight _ :: rest => .next (resetEngine (setInputs rest s))

/-- The state in which the operation numbered by the opcode table is the next event (log entries 1, 7). There is no
stored program (R31, R50): presenting a command is all that running one takes. -/
def State.withFetchWord (s : State) (nbits w : Nat) : State :=
  match tablePorts nbits w with
  | some p => pushInput (.present p) s
  | none => s

end Sys2Proof.Machine
end

