-- ==== Sys2Proof/Machine/Clock.lean ====
section
/-! DEFINITION. The clocked view of the engine: the pins of R65, the handshake of R70, reset at a clock edge (R180,
R181). It runs the meanings of Dispatch.lean and adds time alone; the latencies are an argument, and no state
or response depends on them (R190). `clk` is the edge itself: `clockEdge` is one rising edge. -/

namespace Sys2Proof.Machine

/-- The engine's input pins in one clock cycle (R65). -/
structure Pins where
  /-- `rst` -/
  rst : Bool
  /-- `cmd_valid` -/
  cmdValid : Bool
  /-- `cmd_op`, `cmd_last`, `cmd_data`, `cmd_key`, `cmd_nonce` -/
  cmd : Command
deriving DecidableEq, Repr

/-- The command in flight (R70): accepted, its response not yet given. -/
structure Flight where
  /-- the output to give -/
  pending : List Output
  /-- the cycles to go until the response's cycle -/
  left : Nat
deriving DecidableEq, Repr

/-- The engine between two clock edges: the state of R20 and at most one command in flight (R6, R70). `st.outs`
holds the responses given so far. -/
structure ClockState where
  st : State
  flight : Option Flight
deriving DecidableEq, Repr

/-- After the last edge with `rst = 1` the engine is idle and ready (R180). DESIGN CHOICE (log entry 16): the clocked view
begins there too. -/
def ClockState.reset : ClockState := { st := State.reset, flight := none }

/-- `cmd_ready` (R70, R180): 1 whenever no command is in flight and `rst = 0`, keyed or not. DEDUCED
(log entry 14): it is 0 in the response's own cycle too, and the pins answer `rst` in the same cycle. -/
def cmdReady (p : Pins) (c : ClockState) : Bool := !p.rst && c.flight.isNone

/-- The response an output is, if it is one. -/
def responseOf : List Output → Option Response
  | [.rsp r] => some r
  | _ => none

/-- `rsp_valid`, `rsp_status`, `rsp_data` (R65, R70): the response in its one cycle, nothing in any other. With `rst = 1`
there is none (R180). DEDUCED (log entry 14). -/
def rspPins (p : Pins) (c : ClockState) : Option Response :=
  if p.rst then none
  else match c.flight with
    | some f => if f.left = 0 then responseOf f.pending else none
    | none => none

/-- The cycles from acceptance to response (R70), by the command and the state it is accepted in.
DESIGN CHOICE (log entry 12): 0 means the cycle after the edge that accepts. -/
def commandLatency (lat : Config.Latencies) (c : Command) (s : State) : Nat :=
  if c.op = 0b00#2 then lat.init
  else if c.op = 0b11#2 then lat.err
  else if !s.keyed then lat.err
  else if c.op = 0b10#2 then lat.rdctr
  else if s.pos = 0 then lat.procFirst
  else lat.procNext

/-- A command is accepted (R70): all its fields are sampled, its state change is made, and its output is kept until
the response's cycle. DESIGN CHOICE (log entries 12, 13). -/
def acceptCommand (lat : Config.Latencies) (c : Command) (s : State) : Host.Outcome ClockState Fault Refusal :=
  match exec (decodeCommand c) s with
  | .next t =>
    .next
      { st := { t with outs := s.outs }
        flight := some { pending := t.outs.drop s.outs.length, left := commandLatency lat c s } }
  | .fault r => .fault r
  | .refused r => .refused r

/-- A clock edge at which a command is in flight (R70): its response's cycle ends, or comes one cycle nearer. The command
pins are not looked at (R189). -/
def waitForResponse (f : Flight) (s : State) : ClockState :=
  if f.left = 0 then { st := { s with outs := s.outs ++ f.pending }, flight := none }
  else { st := s, flight := some { f with left := f.left - 1 } }

/-- One rising edge of `clk` (R65, R70, R180, R181). Reset goes before everything and abandons a command in
flight; a command is accepted at an edge with `rst = 0`, `cmd_valid = 1` and `cmd_ready = 1`. -/
def clockEdge (lat : Config.Latencies) (p : Pins) (c : ClockState) : Host.Outcome ClockState Fault Refusal :=
  if p.rst then .next { st := resetEngine c.st, flight := none }
  else match c.flight with
    | some f => .next (waitForResponse f c.st)
    | none => if p.cmdValid then acceptCommand lat p.cmd c.st else .next c

/-- A run of clock edges, the pins of each given. -/
def clockRun (lat : Config.Latencies) : List Pins → ClockState → Host.Outcome ClockState Fault Refusal
  | [], c => .next c
  | p :: ps, c =>
    match clockEdge lat p c with
    | .next c' => clockRun lat ps c'
    | .fault r => .fault r
    | .refused r => .refused r

/-- The commands accepted in a run of clock edges, in order, as events of the transaction level. -/
def acceptedEvents (lat : Config.Latencies) : List Pins → ClockState → List Event
  | [], _ => []
  | p :: ps, c =>
    let here := if cmdReady p c && p.cmdValid then [Event.present (.engine p.cmd)] else []
    match clockEdge lat p c with
    | .next c' => here ++ acceptedEvents lat ps c'
    | _ => here

/-- The state with the response of a command in flight counted as given: what the transaction level sees. -/
def settled (c : ClockState) : State :=
  match c.flight with
  | none => c.st
  | some f => { c.st with outs := c.st.outs ++ f.pending }

end Sys2Proof.Machine
end

