-- ==== Sys2Proof/Machine/Process.lean ====
section
/-! DEFINITION. The source's message-level function PROCESS (R130), which no command carries but a message of PROC
commands computes (R136), and the pseudo-operations MSG, ENCRYPT, DECRYPT, KEYSTREAM (R73). -/

namespace Sys2Proof.Machine

/-- "`S[12] <- S[12] +32 1`" on a bare array, the last line of PROCESS's loop (R130). -/
def nextBlockState (x : Words16) : Words16 := x.set 12 (add32 x[12] oneWord)

/-- PROCESS's loop (R130): one pass per chunk of up to sixteen Words. The first argument bounds the number of passes;
the loop ends by itself when no Word is left. -/
def processChunks : Nat → Words16 → List Word → List Word × Words16
  | 0, x, _ => ([], x)
  | n + 1, x, ws =>
    if ws = [] then ([], x)
    else
      let rest := processChunks n (nextBlockState x) (ws.drop 16)
      (List.zipWith xor32 (ws.take 16) (block x).toList ++ rest.1, rest.2)

/-- PROCESS (R130): the output Words, and the state with its counter moved on. -/
def process (x : Words16) (ws : List Word) : List Word × Words16 := processChunks ws.length x ws

/-- `MSG w0 ... w(n-1)` (R73): n PROC commands, `cmd_last = 1` on the last one only; no command for no Words (R140). -/
def msg : List Word → List Instr
  | [] => []
  | w :: ws => .proc w ws.isEmpty :: msg ws

/-- `ENCRYPT` is `MSG` (R73, R137). -/
def encrypt (plaintext : List Word) : List Instr := msg plaintext

/-- `DECRYPT` is `MSG` (R73, R137). -/
def decrypt (ciphertext : List Word) : List Instr := msg ciphertext

/-- `KEYSTREAM n`: `MSG` of n zero Words, whose responses are the keystream itself (R73). -/
def keystream (n : Nat) : List Instr := msg (List.replicate n zeroWord)

/-- Operations as events of the host, each presented with the encoder. -/
def present (is : List Instr) : List Event := is.map fun i => .present (encode i)

end Sys2Proof.Machine
end

