-- ==== Sys2Proof/Safety.lean ====
section
/-! DEFINITION. What a sound engine state is, in the terms the statements use: the invariants the spec states
(R26, R27, R28, R29, R162). -/

namespace Sys2Proof

open Machine

/-- "For `pos > 0`, `KS = BLOCK(S)`" (R29): an open chunk holds its own keystream. -/
def Safety.KeystreamOfOpenChunk (s : State) : Prop := s.pos ≠ 0 → s.KS = block s.S

/-- A chunk is open only on a constructed state; before the first INIT "`pos` stays 0" (R28, R162). -/
def Safety.OpenOnlyWhenKeyed (s : State) : Prop := s.keyed = false → s.pos = 0

/-- The constant words of a constructed state "never change after construction" (R22, R26). -/
def Safety.ConstantsInPlace (s : State) : Prop :=
  s.keyed = true → s.S[0] = 0x61707865#32 ∧ s.S[1] = 0x3320646e#32 ∧ s.S[2] = 0x79622d32#32 ∧ s.S[3] = 0x6b206574#32

/-- The engine's invariant: the three together. -/
structure Safety.Inv (s : State) : Prop where
  keystream : Safety.KeystreamOfOpenChunk s
  openKeyed : Safety.OpenOnlyWhenKeyed s
  constants : Safety.ConstantsInPlace s

/-- The state the machine acts on, without the host's lines of events and outputs: S, keyed, pos, KS (R20) and the
reset count that numbers the free values. Two states agree on it when no command can tell them apart. -/
def Safety.SameEngine (s t : State) : Prop :=
  s.S = t.S ∧ s.keyed = t.keyed ∧ s.pos = t.pos ∧ s.KS = t.KS ∧ s.resets = t.resets

/-- Events that start no new Session and reset nothing (R26 "between two INITs"). -/
def Safety.staysInSession : Event → Bool
  | .present (.engine c) => c.op != 0b00#2
  | .present _ => true
  | .reset => false
  | .resetInFlight _ => false

end Sys2Proof
end

