-- ==== Sys2Proof/Certificates/Slice0/Obligations.lean ====
section
/-! DEFINITION. The statements for the provers, in the order of the spec's files: word algebra, quarter-round, block
function, engine commands, errors, sessions and invariants, messages, reset, interface, clocked view. The state
change of an instruction is written as a record update, so each completion equation is a frame as well: what the
update does not name is unchanged. The hardware has no memory (R40), so a frame says nothing about bytes. That a result is
appended to `outs`, that an operand of a stateless module is a step of the machine, and `inputs` and `resets`, are the
model's own form (log entries 1, 2, 5, 8), not the spec's. -/

open Sys2Proof Sys2Proof.Machine

/-! ### Word algebra (40_word_algebra) -/

/-- R81: ADD answers the sum modulo 2^32, with the rule's encoding, corner cases and example. -/
def Obligations.AddAnswersTheWrappedSum : Prop :=
  (∀ (a b : Word) (s : State), ∃ y : Word, y.toNat = (a.toNat + b.toNat) % 2 ^ 32 ∧
    exec (.add a b) s = .next { s with outs := s.outs ++ [.word y] }) ∧
  (∀ a b : Word, decode (.wordAddXor 0#1 a b) = .add a b) ∧
  (∀ a : Word, add32 a 0x00000000#32 = a) ∧
  (∀ a b : Word, add32 a b = add32 b a) ∧
  (∀ a b c : Word, add32 (add32 a b) c = add32 a (add32 b c)) ∧
  (∀ a : Word, (add32 a a).toNat = (2 * a.toNat) % 2 ^ 32 ∧ add32 a a = a <<< 1) ∧
  add32 0xFFFFFFFF#32 0x00000001#32 = 0x00000000#32 ∧
  add32 0xFFFFFFFF#32 0xFFFFFFFF#32 = 0xFFFFFFFE#32 ∧
  add32 0x80000000#32 0x80000000#32 = 0x00000000#32 ∧
  add32 0x7FFFFFFF#32 0x00000001#32 = 0x80000000#32 ∧
  add32 0x11111111#32 0x01020304#32 = 0x12131415#32

/-- R82: XOR answers the Word whose bit i is 1 exactly when the operands differ there, with the rule's encoding, corner
cases and example. -/
def Obligations.XorAnswersTheDifferingBits : Prop :=
  (∀ (a b : Word) (s : State), ∃ y : Word,
    (∀ i : Nat, i < 32 → (y.getLsbD i = true ↔ a.getLsbD i ≠ b.getLsbD i)) ∧
    exec (.xor a b) s = .next { s with outs := s.outs ++ [.word y] }) ∧
  (∀ a b : Word, decode (.wordAddXor 1#1 a b) = .xor a b) ∧
  (∀ a : Word, xor32 a 0x00000000#32 = a ∧ xor32 a a = 0x00000000#32 ∧ xor32 a 0xFFFFFFFF#32 = ~~~a) ∧
  (∀ a b : Word, xor32 (xor32 a b) b = a ∧ xor32 a b = xor32 b a) ∧
  (∀ a b c : Word, xor32 (xor32 a b) c = xor32 a (xor32 b c)) ∧
  xor32 0x01234567#32 0x12131415#32 = 0x13305172#32

/-- R83: ROTL moves bit i to position (i + n) mod 32 for every amount of the 5-bit port; both of the rule's forms, its
encoding, corner cases (the composition law and the count of 1 bits among them) and examples. -/
def Obligations.RotlMovesEveryBit : Prop :=
  (∀ (a : Word) (n : BitVec 5) (s : State), ∃ y : Word,
    (∀ i : Nat, i < 32 → y.getLsbD ((i + n.toNat) % 32) = a.getLsbD i) ∧
    (n.toNat = 0 → y = a) ∧
    (1 ≤ n.toNat → y.toNat = (a.toNat * 2 ^ n.toNat) % 2 ^ 32 + a.toNat / 2 ^ (32 - n.toNat)) ∧
    exec (.rotl a n) s = .next { s with outs := s.outs ++ [.word y] }) ∧
  (∀ (a : Word) (n : BitVec 5), decode (.wordRotate a n) = .rotl a n) ∧
  (∀ n : BitVec 5, rotl32 0 n = 0 ∧ rotl32 0xFFFFFFFF#32 n = 0xFFFFFFFF#32) ∧
  (∀ (a : Word) (m n : BitVec 5), rotl32 (rotl32 a m) n = rotl32 a (BitVec.ofNat 5 ((m.toNat + n.toNat) % 32))) ∧
  (∀ (a : Word) (n : BitVec 5),
    (List.range 32).countP (fun i => (rotl32 a n).getLsbD i) = (List.range 32).countP (fun i => a.getLsbD i)) ∧
  rotl32 0x80000000#32 1#5 = 0x00000001#32 ∧
  rotl32 0x00000001#32 31#5 = 0x80000000#32 ∧
  rotl32 0x13305172#32 16#5 = 0x51721330#32 ∧
  rotl32 0x12345678#32 12#5 = 0x45678123#32 ∧
  rotl32 0x12345678#32 8#5 = 0x34567812#32 ∧
  rotl32 0x12345678#32 7#5 = 0x1A2B3C09#32

/-- R84 and R85: the wired constants are the Words 0 and 1. INIT writes the first to the counter, a chunk's end adds the
second. -/
def Obligations.ConstantsAreZeroAndOne : Prop :=
  (∀ s : State, exec .zero s = .next { s with outs := s.outs ++ [.word 0x00000000#32] }) ∧
  (∀ s : State, exec .one s = .next { s with outs := s.outs ++ [.word 0x00000001#32] }) ∧
  (∀ (key : BitVec 256) (nonce : BitVec 96), (constructedState key nonce)[12] = zeroWord) ∧
  (∀ s : State, (incrementCounter s).S[12] = add32 s.S[12] oneWord)

/-- R80 (and R116 for BLOCK): an operation of a stateless module has one result, whatever the state, and leaves the state
as it was but for the output given. -/
def Obligations.StatelessModulesTouchNoState : Prop :=
  (∀ a b : Word, ∃ y : Word, ∀ s : State, exec (.add a b) s = .next { s with outs := s.outs ++ [.word y] }) ∧
  (∀ a b : Word, ∃ y : Word, ∀ s : State, exec (.xor a b) s = .next { s with outs := s.outs ++ [.word y] }) ∧
  (∀ (a : Word) (n : BitVec 5), ∃ y : Word, ∀ s : State,
    exec (.rotl a n) s = .next { s with outs := s.outs ++ [.word y] }) ∧
  (∃ y : Word, ∀ s : State, exec .zero s = .next { s with outs := s.outs ++ [.word y] }) ∧
  (∃ y : Word, ∀ s : State, exec .one s = .next { s with outs := s.outs ++ [.word y] }) ∧
  (∀ a b c d : Word, ∃ e f g h : Word, ∀ s : State,
    exec (.qr a b c d) s = .next { s with outs := s.outs ++ [.quad e f g h] }) ∧
  (∀ x : Words16, ∃ b : Words16, ∀ s : State, exec (.block x) s = .next { s with outs := s.outs ++ [.block b] })

/-- R86: each Word operation is undone by the rule's formula, so it is a bijection of the Words for fixed other operands. -/
def Obligations.WordOperationsAreInvertible : Prop :=
  (∀ a b : Word, add32 (add32 a b) (add32 (xor32 b 0xFFFFFFFF#32) 0x00000001#32) = a ∧
    a.toNat = (2 ^ 32 + (add32 a b).toNat - b.toNat) % 2 ^ 32) ∧
  (∀ a b : Word, xor32 (xor32 a b) b = a) ∧
  (∀ (a : Word) (n : BitVec 5), rotl32 (rotl32 a n) (BitVec.ofNat 5 ((32 - n.toNat) % 32)) = a) ∧
  (∀ b : Word, Function.Bijective fun a => add32 a b) ∧
  (∀ b : Word, Function.Bijective fun a => xor32 a b) ∧
  (∀ n : BitVec 5, Function.Bijective fun a => rotl32 a n)

/-! ### Quarter-round (41_quarter_round) -/

/-- R100: QR answers what the twelve steps give, step by step in the source's order, with the rule's examples (the worked
example with every intermediate). The all-zero corner case, which the rule marks as derived, is in
QuarterRoundIsBijective. -/
def Obligations.QuarterRoundFollowsTheTwelveSteps : Prop :=
  (∀ (a0 b0 c0 d0 a1 d1 d2 c1 b1 b2 a2 d3 d4 c2 b3 b4 : Word) (s : State),
    a1 = a0 + b0 → d1 = d0 ^^^ a1 → d2 = rotl32 d1 16#5 → c1 = c0 + d2 → b1 = b0 ^^^ c1 → b2 = rotl32 b1 12#5 →
    a2 = a1 + b2 → d3 = d2 ^^^ a2 → d4 = rotl32 d3 8#5 → c2 = c1 + d4 → b3 = b2 ^^^ c2 → b4 = rotl32 b3 7#5 →
    exec (.qr a0 b0 c0 d0) s = .next { s with outs := s.outs ++ [.quad a2 b4 c2 d4] }) ∧
  (∀ a b c d : Word, decode (.quarterRound a b c d) = .qr a b c d) ∧
  quarterRound ⟨0xFFFFFFFF#32, 0xFFFFFFFF#32, 0xFFFFFFFF#32, 0xFFFFFFFF#32⟩ =
    ⟨0xF0000FFD#32, 0x88790878#32, 0x0110FDEF#32, 0x010FFDF0#32⟩ ∧
  (let a1 := add32 0x11111111#32 0x01020304#32
   let d1 := xor32 0x01234567#32 a1
   let d2 := rotl32 d1 16#5
   let c1 := add32 0x9B8D6F43#32 d2
   let b1 := xor32 0x01020304#32 c1
   let b2 := rotl32 b1 12#5
   let a2 := add32 a1 b2
   let d3 := xor32 d2 a2
   let d4 := rotl32 d3 8#5
   let c2 := add32 c1 d4
   let b3 := xor32 b2 c2
   let b4 := rotl32 b3 7#5
   [a1, d1, d2, c1, b1, b2, a2, d3, d4, c2, b3, b4] =
     [0x12131415#32, 0x13305172#32, 0x51721330#32, 0xECFF8273#32, 0xEDFD8177#32, 0xD8177EDF#32,
      0xEA2A92F4#32, 0xBB5881C4#32, 0x5881C4BB#32, 0x4581472E#32, 0x9D9639F1#32, 0xCB1CF8CE#32]) ∧
  quarterRound ⟨0x11111111#32, 0x01020304#32, 0x9B8D6F43#32, 0x01234567#32⟩ =
    ⟨0xEA2A92F4#32, 0xCB1CF8CE#32, 0x4581472E#32, 0x5881C4BB#32⟩ ∧
  quarterRound ⟨0x00000001#32, 0, 0, 0⟩ = ⟨0x10000001#32, 0x80808808#32, 0x01010110#32, 0x01000110#32⟩

/-- R101: QRS on pairwise distinct slots puts the four results of QR, on the four Words as they were, into the same four
slots in order, and leaves the other twelve Words; the groups the hardware uses are such slots; with the rule's example. -/
def Obligations.QrsUpdatesItsFourSlots : Prop :=
  (∀ (g : IndexGroup) (x : Words16), g.wf = true →
    let q := quarterRound ⟨x[g.a], x[g.b], x[g.c], x[g.d]⟩
    (qrs g x)[g.a] = q.a ∧ (qrs g x)[g.b] = q.b ∧ (qrs g x)[g.c] = q.c ∧ (qrs g x)[g.d] = q.d ∧
    ∀ i : Fin 16, i ≠ g.a → i ≠ g.b → i ≠ g.c → i ≠ g.d → (qrs g x)[i] = x[i]) ∧
  (∀ g ∈ columnGroups ++ diagonalGroups, g.wf = true) ∧
  (∀ x : Words16, x[2] = 0x516461B1#32 → x[7] = 0x2A5F714C#32 → x[8] = 0x53372767#32 → x[13] = 0x3D631689#32 →
    (qrs ⟨2, 7, 8, 13⟩ x)[2] = 0xBDB886DC#32 ∧ (qrs ⟨2, 7, 8, 13⟩ x)[7] = 0xCFACAFD2#32 ∧
    (qrs ⟨2, 7, 8, 13⟩ x)[8] = 0xE46BEA80#32 ∧ (qrs ⟨2, 7, 8, 13⟩ x)[13] = 0xCCC07C79#32 ∧
    ∀ i : Fin 16, i ≠ 2 → i ≠ 7 → i ≠ 8 → i ≠ 13 → (qrs ⟨2, 7, 8, 13⟩ x)[i] = x[i])

/-- R103 (a), derived there from R86 and R100: undoing the twelve steps in reverse order gives the operands back, so QR is a
bijection on quadruples of Words; and R100's derived corner case, the all-zero fixed point. -/
def Obligations.QuarterRoundIsBijective : Prop :=
  (∀ x : Quad,
    let y := quarterRound x
    let b3 := rotl32 y.b 25#5
    let b2 := b3 ^^^ y.c
    let c1 := y.c - y.d
    let d3 := rotl32 y.d 24#5
    let d2 := d3 ^^^ y.a
    let a1 := y.a - b2
    let b1 := rotl32 b2 20#5
    let b0 := b1 ^^^ c1
    let c0 := c1 - d2
    let d1 := rotl32 d2 16#5
    let d0 := d1 ^^^ a1
    let a0 := a1 - b0
    x = ⟨a0, b0, c0, d0⟩) ∧
  Function.Bijective quarterRound ∧
  quarterRound ⟨0, 0, 0, 0⟩ = ⟨0, 0, 0, 0⟩

/-! ### Block function (42_block_function) -/

/-- R111: the column pass is the four quarter-rounds of the rule on the columns; they touch disjoint Words, cover all
sixteen, and give the same array in any order; with the rule's example. -/
def Obligations.ColumnPassMixesTheColumns : Prop :=
  (∀ w : Words16, colPass w = qrs ⟨3, 7, 11, 15⟩ (qrs ⟨2, 6, 10, 14⟩ (qrs ⟨1, 5, 9, 13⟩ (qrs ⟨0, 4, 8, 12⟩ w)))) ∧
  (∀ (w : Words16) (g : IndexGroup), g ∈ columnGroups → readGroup g (colPass w) = quarterRound (readGroup g w)) ∧
  (columnGroups.flatMap fun g => [g.a, g.b, g.c, g.d]).Perm (List.finRange 16) ∧
  (∀ (w : Words16) (gs : List IndexGroup), gs.Perm columnGroups → groupPass gs w = colPass w) ∧
  colPass
      #v[0x61707865#32, 0x3320646e#32, 0x79622d32#32, 0x6b206574#32, 0, 0, 0, 0, 0, 0, 0, 0, 0, 0, 0, 0] =
    #v[0xb7877feb#32, 0x16526ab4#32, 0xa0f85005#32, 0xb1d26bcb#32, 0x4a7d5c86#32, 0xfae0ea21#32, 0x66e11e68#32,
       0xe3a851a6#32, 0x5a83fd3f#32, 0xa0c7c792#32, 0xf75be0ef#32, 0x0b7556f4#32, 0xe21e9bcf#32, 0x3c599472#32,
       0xca29678d#32, 0xa600ebd4#32] ∧
  quarterRound ⟨0x61707865#32, 0, 0, 0⟩ = ⟨0xB7877FEB#32, 0x4A7D5C86#32, 0x5A83FD3F#32, 0xE21E9BCF#32⟩

/-- R112: the same of the diagonal pass; the counter word is the `d` operand of the first column group and of the second
diagonal group; with the rule's example. -/
def Obligations.DiagonalPassMixesTheDiagonals : Prop :=
  (∀ w : Words16, diagPass w = qrs ⟨3, 4, 9, 14⟩ (qrs ⟨2, 7, 8, 13⟩ (qrs ⟨1, 6, 11, 12⟩ (qrs ⟨0, 5, 10, 15⟩ w)))) ∧
  (∀ (w : Words16) (g : IndexGroup), g ∈ diagonalGroups → readGroup g (diagPass w) = quarterRound (readGroup g w)) ∧
  (columnGroups[0]?.map IndexGroup.d = some 12 ∧ diagonalGroups[1]?.map IndexGroup.d = some 12) ∧
  (diagonalGroups.flatMap fun g => [g.a, g.b, g.c, g.d]).Perm (List.finRange 16) ∧
  (∀ (w : Words16) (gs : List IndexGroup), gs.Perm diagonalGroups → groupPass gs w = diagPass w) ∧
  diagPass
      #v[0xb7877feb#32, 0x16526ab4#32, 0xa0f85005#32, 0xb1d26bcb#32, 0x4a7d5c86#32, 0xfae0ea21#32, 0x66e11e68#32,
         0xe3a851a6#32, 0x5a83fd3f#32, 0xa0c7c792#32, 0xf75be0ef#32, 0x0b7556f4#32, 0xe21e9bcf#32, 0x3c599472#32,
         0xca29678d#32, 0xa600ebd4#32] =
    #v[0xe45fd249#32, 0x1bb820a6#32, 0xe31a88ea#32, 0xe667a9fe#32, 0x2a3bf673#32, 0x86bf4098#32, 0x460b500a#32,
       0xfa169886#32, 0x538dca0e#32, 0x0c439641#32, 0x00fa16bc#32, 0x8a08812a#32, 0x6bbf8b09#32, 0xc33013d6#32,
       0xbb9f9849#32, 0x87c62165#32]

/-- Inferences of the spec on the eight index groups: group m of the diagonal pass is `m, 4 + (m+1) mod 4, 8 + (m+2) mod 4,
12 + (m+3) mod 4` (R112, marked derived there), and each diagonal group takes one word from each column (R113). -/
def Obligations.DiagonalsWrapAroundTheMatrix : Prop :=
  (∀ m : Nat, m < 4 → (diagonalGroups.map fun g => [g.a.val, g.b.val, g.c.val, g.d.val])[m]? =
    some [m, 4 + (m + 1) % 4, 8 + (m + 2) % 4, 12 + (m + 3) % 4]) ∧
  (∀ g ∈ diagonalGroups, ∀ k : Nat, k < 4 → ([g.a.val, g.b.val, g.c.val, g.d.val].countP fun i => i % 4 == k) = 1)

/-- R113 and R114: a double-round is the column pass then the diagonal pass, and the two do not commute; ROUNDS is exactly
ten of them in succession, eight quarter-rounds each; with both rules' examples. -/
def Obligations.RoundsAreTenDoubleRounds : Prop :=
  (∀ w : Words16, doubleRound w = diagPass (colPass w)) ∧
  (∃ w : Words16, diagPass (colPass w) ≠ colPass (diagPass w)) ∧
  (∀ w : Words16, rounds w = doubleRound^[10] w) ∧
  columnGroups.length = 4 ∧ diagonalGroups.length = 4 ∧
  doubleRound
      #v[0x61707865#32, 0x3320646e#32, 0x79622d32#32, 0x6b206574#32, 0, 0, 0, 0, 0, 0, 0, 0, 0, 0, 0, 0] =
    #v[0xe45fd249#32, 0x1bb820a6#32, 0xe31a88ea#32, 0xe667a9fe#32, 0x2a3bf673#32, 0x86bf4098#32, 0x460b500a#32,
       0xfa169886#32, 0x538dca0e#32, 0x0c439641#32, 0x00fa16bc#32, 0x8a08812a#32, 0x6bbf8b09#32, 0xc33013d6#32,
       0xbb9f9849#32, 0x87c62165#32] ∧
  rounds
      #v[0x61707865#32, 0x3320646e#32, 0x79622d32#32, 0x6b206574#32, 0, 0, 0, 0, 0, 0, 0, 0, 0, 0, 0, 0] =
    #v[0x4c704011#32, 0x5d1d8d32#32, 0x6c08300e#32, 0xbd9d20df#32, 0xb819d2bd#32, 0x1aed8da0#32, 0xccef36a8#32,
       0xc70d778b#32, 0x7c5941da#32, 0x8d485751#32, 0x3fe02477#32, 0x374ad8b8#32, 0xf4b8436a#32, 0x1ca11815#32,
       0x69b687c3#32, 0x8665eeb2#32]

/-- R110 and R115: BLOCK answers, for any sixteen Words, the sums modulo 2^32 of the Words after ten double-rounds and the
Words before them, index by index; with the encoding, the all-zero case and the rule's example. -/
def Obligations.BlockIsRoundsPlusFeedForward : Prop :=
  (∀ (x0 : Words16) (s : State), ∃ b : Words16,
    (∀ i : Fin 16, b[i].toNat = (((fun w => diagPass (colPass w))^[10] x0)[i].toNat + x0[i].toNat) % 2 ^ 32) ∧
    exec (.block x0) s = .next { s with outs := s.outs ++ [.block b] }) ∧
  (∀ x0 : Words16, decode (.blockFunction x0) = .block x0) ∧
  block #v[0, 0, 0, 0, 0, 0, 0, 0, 0, 0, 0, 0, 0, 0, 0, 0] = #v[0, 0, 0, 0, 0, 0, 0, 0, 0, 0, 0, 0, 0, 0, 0, 0] ∧
  block
      #v[0x61707865#32, 0x3320646e#32, 0x79622d32#32, 0x6b206574#32, 0, 0, 0, 0, 0, 0, 0, 0, 0, 0, 0, 0] =
    #v[0xade0b876#32, 0x903df1a0#32, 0xe56a5d40#32, 0x28bd8653#32, 0xb819d2bd#32, 0x1aed8da0#32, 0xccef36a8#32,
       0xc70d778b#32, 0x7c5941da#32, 0x8d485751#32, 0x3fe02477#32, 0x374ad8b8#32, 0xf4b8436a#32, 0x1ca11815#32,
       0x69b687c3#32, 0x8665eeb2#32]

/-- R119, derived there from R103: ROUNDS is a bijection on sixteen-Word arrays, so inputs that differ (in the counter, say)
give different post-mixing arrays. The example: counters 0 and 1 under the all-zero key and nonce give different
blocks. -/
def Obligations.RoundsAreBijective : Prop :=
  Function.Bijective rounds ∧
  (∀ (x : Words16) (c c' : Word), c ≠ c' → rounds (x.set 12 c) ≠ rounds (x.set 12 c')) ∧
  block #v[0x61707865#32, 0x3320646e#32, 0x79622d32#32, 0x6b206574#32, 0, 0, 0, 0, 0, 0, 0, 0, 0, 0, 0, 0] ≠
    block #v[0x61707865#32, 0x3320646e#32, 0x79622d32#32, 0x6b206574#32, 0, 0, 0, 0, 0, 0, 0, 0, 1, 0, 0, 0]

/-! ### Engine commands (43_stream_engine) -/

/-- R132 with R23, R25 and R67: INIT, in every state and for every operands, constructs S from the constants, the key and the
nonce most-significant Word first, sets the counter to 0, keyed to 1 and pos to 0, and answers OK with data 0. KS becomes
dead, and what it holds is left open here (log entry 6 has the model's reading). -/
def Obligations.InitConstructsTheState : Prop :=
  (∀ (key : BitVec 256) (nonce : BitVec 96) (s : State), ∃ dead : Words16,
    exec (.init key nonce) s = .next { s with
      KS := dead
      S := #v[0x61707865#32, 0x3320646e#32, 0x79622d32#32, 0x6b206574#32,
              key.extractLsb 255 224, key.extractLsb 223 192, key.extractLsb 191 160, key.extractLsb 159 128,
              key.extractLsb 127 96, key.extractLsb 95 64, key.extractLsb 63 32, key.extractLsb 31 0,
              0x00000000#32, nonce.extractLsb 95 64, nonce.extractLsb 63 32, nonce.extractLsb 31 0]
      keyed := true
      pos := 0
      outs := s.outs ++ [.rsp ⟨.ok, 0x00000000#32⟩] }) ∧
  (∀ c : Command, c.op = 0b00#2 → decode (.engine c) = .init c.key c.nonce)

/-- R22: the constant Words an INIT writes are the bytes of "expand 32-byte k", four to a Word, the first in bits 7:0. -/
def Obligations.ConstantsSpellTheString : Prop :=
  ∀ (key : BitVec 256) (nonce : BitVec 96) (s t : State), exec (.init key nonce) s = .next t →
    (∀ i j : Fin 4, ("expand 32-byte k".toList.map Char.toNat)[4 * i.val + j.val]? =
      some ((t.S[i.val]).extractLsb' (8 * j.val) 8).toNat) ∧
    t.S[0] = 0x61707865#32 ∧ t.S[1] = 0x3320646e#32 ∧ t.S[2] = 0x79622d32#32 ∧ t.S[3] = 0x6b206574#32

/-- R44: an INIT repeated with equal operands changes nothing, and RDCTR never does. -/
def Obligations.RepeatedInitChangesNothing : Prop :=
  (∀ (key : BitVec 256) (nonce : BitVec 96) (s : State), ∃ t u : State,
    exec (.init key nonce) s = .next t ∧ exec (.init key nonce) t = .next u ∧ Safety.SameEngine t u) ∧
  (∀ s : State, ∃ t : State, exec .rdctr s = .next t ∧ Safety.SameEngine s t)

/-- R133: PROC, first the error when the engine is not keyed, then the three steps; with the encoding and the rule's
example (the engine of R132's example). KS is written where the rule's pseudocode writes it and
nowhere else; that it still holds the block once the chunk is closed (pos 0), where R29 and U15 leave it unspecified,
is the model's reading (log entry 6), so the basis is derived. -/
def Obligations.ProcProcessesOneWord : Prop :=
  (∀ (data : Word) (last : Bool) (s : State), s.keyed = false →
    exec (.proc data last) s = .next { s with outs := s.outs ++ [.rsp ⟨.errNotInit, 0x00000000#32⟩] }) ∧
  (∀ (data : Word) (last : Bool) (s : State) (ks : Words16), s.keyed = true →
    ks = (if s.pos = 0 then block s.S else s.KS) →
    exec (.proc data last) s = .next { s with
      KS := ks
      S := if s.pos = 15 ∨ last = true then s.S.set 12 (s.S[12] + 0x00000001#32) else s.S
      pos := if s.pos = 15 ∨ last = true then 0 else s.pos + 1
      outs := s.outs ++ [.rsp ⟨.ok, data ^^^ ks[s.pos]⟩] }) ∧
  (∀ c : Command, c.op = 0b01#2 → decode (.engine c) = .proc c.data (c.last == 1#1)) ∧
  (∀ s t : State, exec (.init 0 0) s = .next t →
    (∃ u, exec (.proc 0x00000000#32 false) t = .next u ∧ u.outs = t.outs ++ [.rsp ⟨.ok, 0xade0b876#32⟩] ∧ u.pos = 1) ∧
    (∃ u, exec (.proc 0x00000000#32 true) t = .next u ∧ u.outs = t.outs ++ [.rsp ⟨.ok, 0xade0b876#32⟩] ∧ u.pos = 0 ∧
      u.S[12] = 0x00000001#32))

/-- R24 and R138: a chunk that ends at counter 0xFFFFFFFF is answered OK and leaves the counter 0; nothing else records the
wrap, and the next chunk meets the block of counter 0. -/
def Obligations.CounterWrapsSilently : Prop :=
  ∀ (data data' : Word) (last : Bool) (s : State), s.keyed = true → s.S[12] = 0xFFFFFFFF#32 → (s.pos = 15 ∨ last = true) →
    ∃ t u y, exec (.proc data last) s = .next t ∧ t.outs = s.outs ++ [.rsp ⟨.ok, y⟩] ∧
      t.S = s.S.set 12 0x00000000#32 ∧ t.keyed = true ∧ t.pos = 0 ∧
      exec (.proc data' false) t = .next u ∧
      u.outs = t.outs ++ [.rsp ⟨.ok, data' ^^^ (block (s.S.set 12 0x00000000#32))[0]⟩]

/-- R134: RDCTR answers the counter when keyed and the error when not, and writes no state; while a chunk is open it is the
open chunk's counter, and PROC after it goes on as without it; after INIT it is 0; after a message of n Words begun at
counter c it is `(c + ceil(n/16)) mod 2^32`. -/
def Obligations.RdctrReturnsTheCounter : Prop :=
  (∀ s : State, s.keyed = true → exec .rdctr s = .next { s with outs := s.outs ++ [.rsp ⟨.ok, s.S[12]⟩] }) ∧
  (∀ s : State, s.keyed = false →
    exec .rdctr s = .next { s with outs := s.outs ++ [.rsp ⟨.errNotInit, 0x00000000#32⟩] }) ∧
  (∀ c : Command, c.op = 0b10#2 → decode (.engine c) = .rdctr) ∧
  (∀ (key : BitVec 256) (nonce : BitVec 96) (s t : State), exec (.init key nonce) s = .next t →
    exec .rdctr t = .next { t with outs := t.outs ++ [.rsp ⟨.ok, 0x00000000#32⟩] }) ∧
  (∀ (s : State) (ws : List Word), s.keyed = true → s.pos = 0 → ws ≠ [] → s.inputs = present (msg ws ++ [.rdctr]) →
    ∃ t os y, Host.Core.run core (ws.length + 1) s = .next t ∧ t.outs = s.outs ++ os ++ [.rsp ⟨.ok, y⟩] ∧
      os.length = ws.length ∧ y.toNat = (s.S[12].toNat + (ws.length + 15) / 16) % 2 ^ 32)

/-- R135: the reserved opcode answers ERR_ILLEGAL_CMD with data 0 in every state, keyed or not and in the middle of a chunk,
and changes no state at all. -/
def Obligations.ReservedOpcodeIsIllegal : Prop :=
  (∀ s : State, exec .rsvd s = .next { s with outs := s.outs ++ [.rsp ⟨.errIllegalCmd, 0x00000000#32⟩] }) ∧
  (∀ c : Command, c.op = 0b11#2 → decode (.engine c) = .rsvd)

/-- R34, what each operation writes: INIT writes no KS; PROC writes only the counter of S, and that only when it ends a
chunk, KS only when it opens one, and pos; every other operation writes nothing; keyed is written by INIT alone. That
INIT leaves KS as it was is R34's table; R29 calls it unspecified then (log entry 6, the model's choice). -/
def Obligations.OnlyInitAndProcWriteState : Prop :=
  ∀ (i : Instr) (s t : State), exec i s = .next t →
    t.inputs = s.inputs ∧ t.resets = s.resets ∧
    ((∃ key nonce, i = .init key nonce) → t.KS = s.KS) ∧
    (∀ data last, i = .proc data last →
      t.keyed = s.keyed ∧ (∀ j : Fin 16, j ≠ 12 → t.S[j] = s.S[j]) ∧
      (¬(s.pos = 15 ∨ last = true) → t.S = s.S) ∧ (s.pos ≠ 0 → t.KS = s.KS)) ∧
    ((¬∃ key nonce, i = .init key nonce) → (¬∃ data last, i = .proc data last) → Safety.SameEngine s t)

/-- R34, what a response can carry: RDCTR's answer depends on keyed and the counter alone, PROC's in an open chunk on
keyed, pos and the one keystream Word `KS[pos]`; so no command reads back the key, the nonce or the constants. -/
def Obligations.ResponsesReadBackNoKey : Prop :=
  (∀ s s' t t' : State, s.keyed = s'.keyed → s.S[12] = s'.S[12] → s.outs = s'.outs →
    exec .rdctr s = .next t → exec .rdctr s' = .next t' → t.outs = t'.outs) ∧
  (∀ (data : Word) (last : Bool) (s s' t t' : State), s.keyed = s'.keyed → s.pos = s'.pos → s.pos ≠ 0 →
    s.KS[s.pos] = s'.KS[s.pos] → s.outs = s'.outs →
    exec (.proc data last) s = .next t → exec (.proc data last) s' = .next t' → t.outs = t'.outs)

/-! ### Responses and errors (30_encoding R68, 60_exceptions) -/

/-- R68 and R191: every command, in every state, is answered with exactly one response; its code is one of the three, an
error carries data 0, and so does INIT. -/
def Obligations.EveryCommandGetsOneResponse : Prop :=
  (∀ (c : Command) (s : State), ∃ t r, exec (decode (.engine c)) s = .next t ∧ t.outs = s.outs ++ [.rsp r] ∧
    statusCode r.status ≠ 0b11#2 ∧ (r.status ≠ .ok → r.data = 0x00000000#32) ∧ (c.op = 0b00#2 → r.data = 0x00000000#32)) ∧
  statusCode .ok = 0b00#2 ∧ statusCode .errNotInit = 0b01#2 ∧ statusCode .errIllegalCmd = 0b10#2

/-- R161, R163 and R164: which status a command gets. The reserved opcode gives ERR_ILLEGAL_CMD, keyed or not, and nothing
else does; PROC and RDCTR give ERR_NOT_INIT exactly when keyed is 0; everything else is OK. -/
def Obligations.ErrorsAreExactlyTheseTwo : Prop :=
  ∀ (c : Command) (s t : State) (r : Response), exec (decode (.engine c)) s = .next t → t.outs = s.outs ++ [.rsp r] →
    (r.status = .errIllegalCmd ↔ c.op = 0b11#2) ∧
    (r.status = .errNotInit ↔ (c.op = 0b01#2 ∨ c.op = 0b10#2) ∧ s.keyed = false) ∧
    (r.status = .ok ↔ c.op = 0b00#2 ∨ ((c.op = 0b01#2 ∨ c.op = 0b10#2) ∧ s.keyed = true))

/-- R160 and R165: an operation answered with an error writes none of S, KS, keyed, pos, and its data is 0. -/
def Obligations.ErrorsChangeNoState : Prop :=
  ∀ (i : Instr) (s t : State) (r : Response), exec i s = .next t → t.outs = s.outs ++ [.rsp r] → r.status ≠ .ok →
    r.data = 0x00000000#32 ∧ t = { s with outs := s.outs ++ [.rsp r] }

/-- R162: between a reset and the first INIT, PROC and RDCTR answer ERR_NOT_INIT and change nothing: the Word of the PROC is
dropped, `last` closes nothing, and pos stays. -/
def Obligations.NotInitUntilFirstInit : Prop :=
  ∀ (data : Word) (last : Bool) (s : State), s.keyed = false →
    exec (.proc data last) s = .next { s with outs := s.outs ++ [.rsp ⟨.errNotInit, 0x00000000#32⟩] } ∧
    exec .rdctr s = .next { s with outs := s.outs ++ [.rsp ⟨.errNotInit, 0x00000000#32⟩] }

/-- R172: the outputs given are never read. A run from a state with other earlier outputs is the same run: so after an
error, which changes outputs alone (ErrorsChangeNoState), the engine behaves as if the command had not been issued. -/
def Obligations.EarlierOutputsAreNeverRead : Prop :=
  ∀ (n : Nat) (earlier : List Output) (s t : State), Host.Core.run core n s = .next t →
    Host.Core.run core n { s with outs := earlier ++ s.outs } = .next { t with outs := earlier ++ t.outs }

/-- R191: no state is stuck: every step from every state has a next state, and after an INIT every PROC and RDCTR is
answered OK. -/
def Obligations.NoStateIsStuck : Prop :=
  (∀ s : State, ∃ t, step s = .next t) ∧
  (∀ (key : BitVec 256) (nonce : BitVec 96) (s t : State), exec (.init key nonce) s = .next t →
    (∀ data last, ∃ u y, exec (.proc data last) t = .next u ∧ u.outs = t.outs ++ [.rsp ⟨.ok, y⟩]) ∧
    (∃ u y, exec .rdctr t = .next u ∧ u.outs = t.outs ++ [.rsp ⟨.ok, y⟩]))

/-! ### Sessions and invariants (10_state) -/

/-- R26: within a Session, over any number of steps, no Word of S but the counter changes; and a step moves the counter by
one, only for a PROC on a keyed engine that ends a chunk, or not at all. -/
def Obligations.OnlyTheCounterMovesInASession : Prop :=
  (∀ (n : Nat) (s t : State), (∀ e ∈ s.inputs.take n, Safety.staysInSession e = true) →
    Host.Core.run core n s = .next t → ∀ j : Fin 16, j ≠ 12 → t.S[j] = s.S[j]) ∧
  (∀ (e : Event) (rest : List Event) (s t : State), Safety.staysInSession e = true → s.inputs = e :: rest →
    step s = .next t →
    (t.S[12] = s.S[12] ∨ (t.S[12] = s.S[12] + 1 ∧ s.keyed = true ∧
      ∃ c, e = .present (.engine c) ∧ c.op = 0b01#2 ∧ (s.pos = 15 ∨ c.last = 1#1))))

/-- The invariant of the engine holds at reset (R27, R28, R35). -/
def Obligations.InvariantHoldsAtReset : Prop := Safety.Inv State.reset

/-- R22, R26, R28, R29: every step from every state keeps the engine's invariant: an open chunk holds `BLOCK(S)` in KS, a
chunk is open only on a constructed state, and a constructed state has the constants in place. -/
def Obligations.EveryStepKeepsTheInvariant : Prop :=
  ∀ s t : State, Safety.Inv s → step s = .next t → Safety.Inv t

/-- R29: in a state that meets the invariant, PROC's answer is `data ^ BLOCK(S)[pos]`: KS can be left out and the block
computed at every PROC. -/
def Obligations.KeystreamBufferIsInvisible : Prop :=
  ∀ (data : Word) (last : Bool) (s : State), Safety.Inv s → s.keyed = true →
    ∃ t, exec (.proc data last) s = .next t ∧ t.outs = s.outs ++ [.rsp ⟨.ok, data ^^^ (block s.S)[s.pos]⟩]

/-- R35: no response ever depends on an unspecified Word. Two unkeyed engines with the same events before them and the same
outputs behind them, whatever their S and KS hold, give the same outputs at every later time. -/
def Obligations.NoOutputDependsOnUnspecifiedContents : Prop :=
  ∀ (n : Nat) (s s' t t' : State), s.keyed = false → s'.keyed = false → s.pos = 0 → s'.pos = 0 →
    s.inputs = s'.inputs → s.outs = s'.outs → Host.Core.run core n s = .next t → Host.Core.run core n s' = .next t' →
    t.outs = t'.outs ∧ t.keyed = t'.keyed ∧ t.pos = t'.pos ∧ (t.keyed = true → t.S = t'.S)

/-! ### Messages (43_stream_engine R130 to R141, 30_encoding R73) -/

/-- R131: PROCESS in closed form. Output Word j is input Word j XORed with Word `j mod 16` of the block at counter
`c0 + j div 16`; the counter moves on by `ceil(n / 16)`, and no other Word of the state changes. -/
def Obligations.ProcessHasAClosedForm : Prop :=
  ∀ (x : Words16) (ws : List Word),
    (process x ws).1.length = ws.length ∧
    (∀ (j : Nat) (w : Word), ws[j]? = some w →
      (process x ws).1[j]? =
        some (w ^^^ (block (x.set 12 (x[12] + BitVec.ofNat 32 (j / 16))))[j % 16]'(Nat.mod_lt j (by decide)))) ∧
    (process x ws).2 = x.set 12 (x[12] + BitVec.ofNat 32 ((ws.length + 15) / 16))

/-- R130 "Boundary", R140, R141: the empty message does nothing and is no command; 16 Words take one counter value, 17 take
two. -/
def Obligations.MessageBoundaries : Prop :=
  (∀ x : Words16, process x [] = ([], x)) ∧ msg [] = [] ∧
  (∀ (x : Words16) (ws : List Word), ws.length = 16 → (process x ws).2[12] = x[12] + 1) ∧
  (∀ (x : Words16) (ws : List Word), ws.length = 17 → (process x ws).2[12] = x[12] + 2) ∧
  (∀ (x : Words16) (ws : List Word), 1 ≤ ws.length → ws.length ≤ 16 → (process x ws).2[12] = x[12] + 1)

/-- R73: MSG is one PROC per Word in order, `last` on the last one only; ENCRYPT and DECRYPT are MSG; the responses to
KEYSTREAM n are the keystream Words themselves. -/
def Obligations.PseudoOperationsAreMessages : Prop :=
  (∀ (ws : List Word) (j : Nat) (w : Word), ws[j]? = some w → (msg ws)[j]? = some (.proc w (j + 1 == ws.length))) ∧
  (∀ ws : List Word, (msg ws).length = ws.length) ∧
  (∀ ws : List Word, encrypt ws = msg ws ∧ decrypt ws = msg ws) ∧
  (∀ n : Nat, keystream n = msg (List.replicate n 0x00000000#32)) ∧
  (∀ (x : Words16) (n j : Nat), j < n → (process x (List.replicate n 0x00000000#32)).1[j]? =
    some ((block (x.set 12 (x[12] + BitVec.ofNat 32 (j / 16))))[j % 16]'(Nat.mod_lt j (by decide))))

/-- R137: PROCESS undoes itself from the same state, so decryption is encryption. -/
def Obligations.ProcessIsSelfInverse : Prop :=
  ∀ (x : Words16) (ws : List Word), process x (process x ws).1 = (ws, (process x ws).2)

/-- R136: a message of n ≥ 1 Words to a keyed engine at pos 0 is answered, Word by Word, with the outputs of PROCESS over S,
and leaves the state PROCESS returns with pos 0. -/
def Obligations.MessageRefinesProcess : Prop :=
  ∀ (s : State) (ws : List Word), s.keyed = true → s.pos = 0 → ws ≠ [] → s.inputs = present (msg ws) →
    ∃ t, Host.Core.run core ws.length s = .next t ∧
      t.outs = s.outs ++ (process s.S ws).1.map (fun y => .rsp ⟨.ok, y⟩) ∧
      t.S = (process s.S ws).2 ∧ t.keyed = true ∧ t.pos = 0 ∧ t.inputs = []

/-- R136, "RDCTR and RSVD may be interleaved freely": a message with any number of them among its PROC commands ends in the
state PROCESS returns, and the responses to its PROC commands, in order, are PROCESS's outputs. -/
def Obligations.InterleavedQueriesDoNotDisturb : Prop :=
  ∀ (s : State) (ws : List Word) (is : List Instr), s.keyed = true → s.pos = 0 → ws ≠ [] →
    is.filter (fun i => i != .rdctr && i != .rsvd) = msg ws → s.inputs = present is →
    ∃ t os, Host.Core.run core is.length s = .next t ∧ t.outs = s.outs ++ os ∧ os.length = is.length ∧
      ((is.zip os).filter (fun p => p.1 != .rdctr && p.1 != .rsvd)).map Prod.snd =
        (process s.S ws).1.map (fun y => .rsp ⟨.ok, y⟩) ∧
      t.S = (process s.S ws).2 ∧ t.keyed = true ∧ t.pos = 0

/-- R137 and R186 at the engine: bring two engines to INIT with the same key and nonce, send one a message and the other the
Words it answered: the second answers the message. -/
def Obligations.DecryptionReturnsThePlaintext : Prop :=
  ∀ (key : BitVec 256) (nonce : BitVec 96) (s s' t : State) (plain cipher : List Word), plain ≠ [] →
    s.inputs = present (.init key nonce :: encrypt plain) →
    Host.Core.run core (plain.length + 1) s = .next t →
    t.outs = s.outs ++ .rsp ⟨.ok, 0⟩ :: cipher.map (fun y => .rsp ⟨.ok, y⟩) →
    s'.inputs = present (.init key nonce :: decrypt cipher) →
    ∃ t', Host.Core.run core (plain.length + 1) s' = .next t' ∧
      t'.outs = s'.outs ++ .rsp ⟨.ok, 0⟩ :: plain.map (fun w => .rsp ⟨.ok, w⟩)

/-- R139: a second message goes on with the counter where the first left it. -/
def Obligations.CounterContinuesAcrossMessages : Prop :=
  ∀ (s : State) (us ws : List Word), s.keyed = true → s.pos = 0 → us ≠ [] → ws ≠ [] →
    s.inputs = present (msg us ++ msg ws) →
    ∃ t, Host.Core.run core (us.length + ws.length) s = .next t ∧
      t.outs = s.outs ++ (process s.S us).1.map (fun y => .rsp ⟨.ok, y⟩) ++
        (process (process s.S us).2 ws).1.map (fun y => .rsp ⟨.ok, y⟩) ∧
      t.S[12] = s.S[12] + BitVec.ofNat 32 ((us.length + 15) / 16) + BitVec.ofNat 32 ((ws.length + 15) / 16)

/-! ### Reset, the interface and decoding (70_reset_and_hazards, 30_encoding) -/

/-- R27, R28, R35, R180: a reset, in any state, leaves keyed 0 and pos 0 and gives no response; so does the state after
reset itself. What S and KS hold then is left open. -/
def Obligations.ResetLeavesTheEngineUnkeyed : Prop :=
  (∀ (s : State) (rest : List Event), s.inputs = .reset :: rest → ∃ t, step s = .next t ∧ t.keyed = false ∧ t.pos = 0 ∧
    t.outs = s.outs ∧ t.inputs = rest) ∧
  State.reset.keyed = false ∧ State.reset.pos = 0

/-- R181: a command abandoned by a reset gives no response and has no effect: the state is that of a reset alone. The event
itself, and the numbering of the contents a reset leaves, are the model's choice (log entries 5, 11). -/
def Obligations.AbandonedCommandHasNoEffect : Prop :=
  ∀ (c : Command) (s : State) (rest : List Event),
    step { s with inputs := .resetInFlight c :: rest } = step { s with inputs := .reset :: rest }

/-- R71: fields a command ignores affect neither state nor response: two commands with the same opcode that agree on the
fields it reads decode alike and step alike. -/
def Obligations.IgnoredFieldsDoNotMatter : Prop :=
  ∀ (c c' : Command), c.op = c'.op → (c.op = 0b00#2 → c.key = c'.key ∧ c.nonce = c'.nonce) →
    (c.op = 0b01#2 → c.data = c'.data ∧ c.last = c'.last) →
    decode (.engine c) = decode (.engine c') ∧
    ∀ (s : State) (rest : List Event),
      step { s with inputs := .present (.engine c) :: rest } = step { s with inputs := .present (.engine c') :: rest }

/-- A step with an event before it runs the decoded operation on the state with that event taken (R47, R50); with none the
engine is idle and keeps its state (R171, R191). The line of events and the reading of the opcode table's numbers are the
model's choice (log entries 1, 7). -/
def Obligations.StepRunsTheDecodedOperation : Prop :=
  (∀ (s : State) (p : Ports) (rest : List Event), s.inputs = .present p :: rest → (decode p).wf = true →
    step s = exec (decode p) { s with inputs := rest }) ∧
  (∀ s : State, s.inputs = [] → step s = .next s) ∧
  (∀ (s : State) (nbits w : Nat) (i : Instr), decodeTableWord nbits w = some i →
    step (s.withFetchWord nbits w) = exec i s)

/-- Decode and encode agree (R60 to R66, R69, R71). Decoding what the encoder presents gives the operation back, with every
operand at every value, and every operation is well formed; and encoding what was decoded gives back what was
presented, every bit of it, but for the fields a command ignores (R71), which the encoder presents as zeros. -/
def Obligations.DecodeAndEncodeAgree : Prop :=
  (∀ i : Instr, i.wf = true ∧ decode (encode i) = i) ∧
  (∀ p : Ports, (∀ c, p ≠ .engine c) → encode (decode p) = p) ∧
  (∀ c : Command, encode (decode (.engine c)) = .engine
    { op := c.op
      last := if c.op = 0b01#2 then c.last else 0
      data := if c.op = 0b01#2 then c.data else 0
      key := if c.op = 0b00#2 then c.key else 0
      nonce := if c.op = 0b00#2 then c.nonce else 0 })

/-- R60, R61 and R66: whatever is presented, the code on the module's select field is the decoded operation's row of the
opcode table. -/
def Obligations.DecodingFollowsTheOpcodeTable : Prop :=
  ∀ p : Ports, selectCode p &&& (tableMatchMask (decode p)).2 = (tableMatchMask (decode p)).1 ∧
    selectCode p < 2 ^ 2 ∧ (∀ op a b, p = .wordAddXor op a b → selectCode p < 2 ^ 1)

/-- A few encodings written out from R61, R62 and R66 decode to the operations they stand for. -/
def Obligations.WrittenEncodingsDecodeRight : Prop :=
  decode (.wordAddXor 0#1 0x11111111#32 0x01020304#32) = .add 0x11111111#32 0x01020304#32 ∧
  decode (.wordAddXor 1#1 0x01234567#32 0x12131415#32) = .xor 0x01234567#32 0x12131415#32 ∧
  decode (.wordRotate 0x12345678#32 0b00111#5) = .rotl 0x12345678#32 7#5 ∧
  decode (.engine ⟨0b00#2, 1#1, 0xFFFFFFFF#32, 5#256, 9#96⟩) = .init 5#256 9#96 ∧
  decode (.engine ⟨0b01#2, 1#1, 0xdeadbeef#32, 5#256, 9#96⟩) = .proc 0xdeadbeef#32 true ∧
  decode (.engine ⟨0b01#2, 0#1, 0xdeadbeef#32, 0#256, 0#96⟩) = .proc 0xdeadbeef#32 false ∧
  decode (.engine ⟨0b10#2, 1#1, 0xFFFFFFFF#32, 5#256, 9#96⟩) = .rdctr ∧
  decode (.engine ⟨0b11#2, 0#1, 0#32, 0#256, 0#96⟩) = .rsvd

/-! ### The clocked view (30_encoding R65, R70; 70_reset_and_hazards R180, R181, R189 to R191) -/

/-- R180 and R181 at the pins: while rst is 1 the engine is not ready and gives no response, whatever else the pins say; the
edge leaves it reset and idle, a command in flight is abandoned, and it is ready as soon as rst is 0. How the pins read
in a cycle with rst = 1 is as log entry 14 says. -/
def Obligations.ResetEdgeAbandonsTheCommand : Prop :=
  ∀ (lat : Config.Latencies) (p q : Pins) (c : ClockState), p.rst = true → q.rst = false →
    cmdReady p c = false ∧ rspPins p c = none ∧
    ∃ c', clockEdge lat p c = .next c' ∧ c'.st.keyed = false ∧ c'.st.pos = 0 ∧ c'.st.outs = c.st.outs ∧
      c'.flight = none ∧ cmdReady q c' = true ∧ rspPins q c' = none

/-- R70: a command accepted by an idle engine is answered in the cycle its latency says, and in no other: for as many
further edges as the latency, whatever the command pins say meanwhile (R189), the engine stays not ready and silent;
then it gives the response for one cycle, and after the next edge it is ready again with that response given. From which
cycle a latency counts, and that the state changes at acceptance, are the model's choice (log entries 12, 13); that
it is still not ready in the response's own cycle is the model's reading of R70 (log entry 14). -/
def Obligations.ResponseComesAfterItsLatency : Prop :=
  ∀ (lat : Config.Latencies) (p q : Pins) (ps : List Pins) (c : ClockState), c.flight = none → p.rst = false →
    p.cmdValid = true → q.rst = false → (∀ p' ∈ ps, p'.rst = false) →
    cmdReady p c = true ∧ rspPins p c = none ∧
    ∃ t r, exec (decode (.engine p.cmd)) c.st = .next t ∧ t.outs = c.st.outs ++ [.rsp r] ∧
      (ps.length < commandLatency lat p.cmd c.st → ∃ c', clockRun lat (p :: ps) c = .next c' ∧
        cmdReady q c' = false ∧ rspPins q c' = none) ∧
      (ps.length = commandLatency lat p.cmd c.st → ∃ c' c'', clockRun lat (p :: ps) c = .next c' ∧
        cmdReady q c' = false ∧ rspPins q c' = some r ∧
        clockEdge lat q c' = .next c'' ∧ c'' = { st := t, flight := none } ∧ cmdReady q c'' = true)

/-- R9, R47 and R190: what the clocked engine does over any run without reset, with any latencies and any pins, is what the
transaction level does with the commands it accepted, in that order, one step each. A response still in flight counts as
given, since the model changes the state at acceptance (log entry 13). -/
def Obligations.ClockedRunIsTheCommandSequence : Prop :=
  ∀ (lat : Config.Latencies) (ps : List Pins) (c c' : ClockState), c.flight = none → c.st.inputs = [] →
    (∀ p ∈ ps, p.rst = false) → clockRun lat ps c = .next c' →
    Host.Core.run core (acceptedEvents lat ps c).length { c.st with inputs := acceptedEvents lat ps c } =
      .next (settled c')

/-- R70 and R191: with no command in flight and no reset the engine is ready, keyed or not, and waits for nothing but the
host; with one in flight it is not, up to and including its response's cycle (log entry 14); every edge has a next
state. -/
def Obligations.IdleEngineIsReady : Prop :=
  ∀ (lat : Config.Latencies) (p : Pins) (c : ClockState), p.rst = false →
    (c.flight = none → cmdReady p c = true ∧ rspPins p c = none ∧ (p.cmdValid = false → clockEdge lat p c = .next c)) ∧
    (c.flight ≠ none → cmdReady p c = false) ∧
    ∃ c', clockEdge lat p c = .next c'
end

