-- ==== Sys2Proof/Laws/Words.lean ====
section
/-! SUPPORT. The Word operations in terms of bit-vector arithmetic (R81, R82, R83). -/

namespace Sys2Proof.Machine

@[simp] theorem add32_eq (a b : Word) : add32 a b = a + b := rfl

@[simp] theorem xor32_eq (a b : Word) : xor32 a b = a ^^^ b := rfl

@[simp] theorem zeroWord_eq : zeroWord = 0x00000000#32 := rfl

@[simp] theorem oneWord_eq : oneWord = 0x00000001#32 := rfl

/-- The spec's second form of the rotation is the library's rotation. -/
theorem rotl32_eq_rotateLeft (a : Word) (n : BitVec 5) : rotl32 a n = a.rotateLeft n.toNat := by
  have hn : n.toNat < 32 := n.isLt
  unfold rotl32
  split
  · next h => subst h; simp [BitVec.rotateLeft, BitVec.rotateLeftAux, BitVec.ushiftRight_eq_zero]
  · simp [BitVec.rotateLeft, BitVec.rotateLeftAux, Nat.mod_eq_of_lt hn]

/-- Bit `k` of a rotation, wherever it comes from. -/
theorem getLsbD_rotl32 (a : Word) (n : BitVec 5) (k : Nat) (hk : k < 32) :
    (rotl32 a n).getLsbD k = a.getLsbD ((k + (32 - n.toNat)) % 32) := by
  have hn : n.toNat < 32 := n.isLt
  rw [rotl32_eq_rotateLeft, BitVec.getLsbD_rotateLeft, Nat.mod_eq_of_lt hn]
  by_cases h : k < n.toNat
  · simp only [h, decide_true, cond_true]; congr 1; omega
  · simp only [h, hk, decide_true, decide_false, cond_false, Bool.true_and]; congr 1; omega

/-- Rotations compose by adding their amounts modulo 32. -/
theorem rotl32_rotl32 (a : Word) (m n k : BitVec 5) (hk : k.toNat = (m.toNat + n.toNat) % 32) :
    rotl32 (rotl32 a m) n = rotl32 a k := by
  have hm : m.toNat < 32 := m.isLt
  have hn : n.toNat < 32 := n.isLt
  refine BitVec.eq_of_getLsbD_eq fun i hi => ?_
  rw [getLsbD_rotl32 _ _ _ hi, getLsbD_rotl32 _ _ _ (Nat.mod_lt _ (by decide)), getLsbD_rotl32 _ _ _ hi, hk]
  congr 1
  omega

theorem rotl32_zero_amount (a : Word) : rotl32 a 0#5 = a := by simp [rotl32]

/-- A rotation is undone by the amount that makes 32 with it. -/
theorem rotl32_undo (a : Word) (m n : BitVec 5) (h : (m.toNat + n.toNat) % 32 = 0) : rotl32 (rotl32 a m) n = a := by
  rw [rotl32_rotl32 a m n 0#5 (by simpa using h.symm), rotl32_zero_amount]

end Sys2Proof.Machine
end

