-- ==== Sys2Proof/Laws/Arrays.lean ====
section
/-! SUPPORT. Sixteen-Word arrays under the quarter-round: what QRS reads and writes (R101), why the groups of a pass
do not meet (R104), and ROUNDS as an iteration (R114). -/

namespace Sys2Proof.Machine

/-- The slots of a group. -/
def slots (g : IndexGroup) : List (Fin 16) := [g.a, g.b, g.c, g.d]

theorem IndexGroup.ne_of_wf {g : IndexGroup} (h : g.wf = true) :
    g.a ≠ g.b ∧ g.a ≠ g.c ∧ g.a ≠ g.d ∧ g.b ≠ g.c ∧ g.b ≠ g.d ∧ g.c ≠ g.d := by
  simpa [IndexGroup.wf, and_assoc] using h

/-- One slot of an array after a write to another or the same slot. -/
theorem getFin_set (x : Words16) (i j : Fin 16) (v : Word) : (x.set i v)[j] = if i = j then v else x[j] := by
  simp [Fin.getElem_fin, Vector.getElem_set, Fin.ext_iff]

/-- Two arrays that agree on every index are equal. -/
theorem words16_ext {x y : Words16} (h : ∀ i : Fin 16, x[i] = y[i]) : x = y :=
  Vector.ext fun i hi => h ⟨i, hi⟩

theorem writeGroup_other (g : IndexGroup) (q : Quad) (x : Words16) (i : Fin 16) (h : i ∉ slots g) :
    (writeGroup g q x)[i] = x[i] := by
  simp only [slots, List.mem_cons, List.not_mem_nil, or_false, not_or] at h
  obtain ⟨ha, hb, hc, hd⟩ := h
  simp only [writeGroup, getFin_set, if_neg (Ne.symm ha), if_neg (Ne.symm hb), if_neg (Ne.symm hc), if_neg (Ne.symm hd)]

theorem readGroup_writeGroup (g : IndexGroup) (q : Quad) (x : Words16) (h : g.wf = true) :
    readGroup g (writeGroup g q x) = q := by
  obtain ⟨hab, hac, had, hbc, hbd, hcd⟩ := IndexGroup.ne_of_wf h
  simp only [readGroup, writeGroup, getFin_set, if_true, if_neg hab.symm, if_neg hac.symm, if_neg had.symm,
    if_neg hbc.symm, if_neg hbd.symm, if_neg hcd.symm]

/-- A write to a group is not seen by a group that shares no slot with it. -/
theorem readGroup_writeGroup_disjoint (g g' : IndexGroup) (q : Quad) (x : Words16) (h : ∀ i ∈ slots g', i ∉ slots g) :
    readGroup g' (writeGroup g q x) = readGroup g' x := by
  have k : ∀ i ∈ slots g', (writeGroup g q x)[i] = x[i] := fun i hi => writeGroup_other g q x i (h i hi)
  simp only [slots, List.forall_mem_cons] at k
  simp only [readGroup, k]

/-- Two arrays that agree on a group's slots and on every other index are equal. -/
theorem words16_ext_group (g : IndexGroup) {x y : Words16} (h : readGroup g x = readGroup g y)
    (k : ∀ i, i ∉ slots g → x[i] = y[i]) : x = y := by
  simp only [readGroup, Quad.mk.injEq] at h
  obtain ⟨ha, hb, hc, hd⟩ := h
  refine words16_ext fun i => ?_
  by_cases hi : i ∈ slots g
  · simp only [slots, List.mem_cons, List.not_mem_nil, or_false] at hi
    rcases hi with rfl | rfl | rfl | rfl <;> assumption
  · exact k i hi

theorem readGroup_qrs (g : IndexGroup) (x : Words16) (h : g.wf = true) :
    readGroup g (qrs g x) = quarterRound (readGroup g x) := readGroup_writeGroup g _ x h

theorem qrs_other (g : IndexGroup) (x : Words16) (i : Fin 16) (h : i ∉ slots g) : (qrs g x)[i] = x[i] :=
  writeGroup_other g _ x i h

theorem readGroup_qrs_disjoint (g g' : IndexGroup) (x : Words16) (h : ∀ i ∈ slots g', i ∉ slots g) :
    readGroup g' (qrs g x) = readGroup g' x := readGroup_writeGroup_disjoint g g' _ x h

/-- Quarter-rounds on groups without a common slot commute (R118). -/
theorem qrs_comm (g g' : IndexGroup) (x : Words16) (h : g.wf = true) (h' : g'.wf = true) (hd : ∀ i ∈ slots g', i ∉ slots g) :
    qrs g (qrs g' x) = qrs g' (qrs g x) := by
  have hd' : ∀ i ∈ slots g, i ∉ slots g' := fun i hi hi' => hd i hi' hi
  refine words16_ext_group g ?_ fun i hi => ?_
  · rw [readGroup_qrs g _ h, readGroup_qrs_disjoint g' g _ hd', readGroup_qrs_disjoint g' g _ hd', readGroup_qrs g _ h]
  · rw [qrs_other g _ i hi]
    by_cases hi' : i ∈ slots g'
    · have e : readGroup g' (qrs g' (qrs g x)) = readGroup g' (qrs g' x) := by
        rw [readGroup_qrs g' _ h', readGroup_qrs g' _ h', readGroup_qrs_disjoint g g' _ hd]
      simp only [readGroup, Quad.mk.injEq] at e
      simp only [slots, List.mem_cons, List.not_mem_nil, or_false] at hi'
      obtain ⟨ea, eb, ec, ed⟩ := e
      rcases hi' with rfl | rfl | rfl | rfl
      · exact ea.symm
      · exact eb.symm
      · exact ec.symm
      · exact ed.symm
    · rw [qrs_other g' _ i hi', qrs_other g' _ i hi', qrs_other g _ i hi]

theorem columnGroups_wf : ∀ g ∈ columnGroups, g.wf = true := by decide

theorem diagonalGroups_wf : ∀ g ∈ diagonalGroups, g.wf = true := by decide

/-- Two groups of the column pass share no slot. -/
theorem columnGroups_disjoint : ∀ g ∈ columnGroups, ∀ g' ∈ columnGroups, g ≠ g' → ∀ i ∈ slots g', i ∉ slots g := by decide

/-- Two groups of the diagonal pass share no slot. -/
theorem diagonalGroups_disjoint :
    ∀ g ∈ diagonalGroups, ∀ g' ∈ diagonalGroups, g ≠ g' → ∀ i ∈ slots g', i ∉ slots g := by decide

theorem doubleRounds_eq_iterate (n : Nat) (w : Words16) : doubleRounds n w = doubleRound^[n] w := by
  induction n generalizing w with
  | zero => rfl
  | succ n ih => rw [doubleRounds, ih, Function.iterate_succ_apply]

/-- The block, index by index (R115). -/
theorem block_get (x : Words16) (i : Fin 16) : (block x)[i] = (rounds x)[i] + x[i] := by
  simp [block, feedForward]

end Sys2Proof.Machine
end

