-- ==== Sys2Proof/Laws/State.lean ====
section
/-! SUPPORT. The fields of the state after each named operation: one lemma per field per operation, so that no proof
unfolds a record update. -/

namespace Sys2Proof.Machine

@[simp] theorem writeS_S (i : Fin 16) (v : Word) (s : State) : (writeS i v s).S = s.S.set i v := rfl
@[simp] theorem writeS_keyed (i : Fin 16) (v : Word) (s : State) : (writeS i v s).keyed = s.keyed := rfl
@[simp] theorem writeS_pos (i : Fin 16) (v : Word) (s : State) : (writeS i v s).pos = s.pos := rfl
@[simp] theorem writeS_KS (i : Fin 16) (v : Word) (s : State) : (writeS i v s).KS = s.KS := rfl
@[simp] theorem writeS_resets (i : Fin 16) (v : Word) (s : State) : (writeS i v s).resets = s.resets := rfl
@[simp] theorem writeS_inputs (i : Fin 16) (v : Word) (s : State) : (writeS i v s).inputs = s.inputs := rfl
@[simp] theorem writeS_outs (i : Fin 16) (v : Word) (s : State) : (writeS i v s).outs = s.outs := rfl

@[simp] theorem loadS_S (x : Words16) (s : State) : (loadS x s).S = x := rfl
@[simp] theorem loadS_keyed (x : Words16) (s : State) : (loadS x s).keyed = s.keyed := rfl
@[simp] theorem loadS_pos (x : Words16) (s : State) : (loadS x s).pos = s.pos := rfl
@[simp] theorem loadS_KS (x : Words16) (s : State) : (loadS x s).KS = s.KS := rfl
@[simp] theorem loadS_resets (x : Words16) (s : State) : (loadS x s).resets = s.resets := rfl
@[simp] theorem loadS_inputs (x : Words16) (s : State) : (loadS x s).inputs = s.inputs := rfl
@[simp] theorem loadS_outs (x : Words16) (s : State) : (loadS x s).outs = s.outs := rfl

@[simp] theorem loadKS_S (x : Words16) (s : State) : (loadKS x s).S = s.S := rfl
@[simp] theorem loadKS_keyed (x : Words16) (s : State) : (loadKS x s).keyed = s.keyed := rfl
@[simp] theorem loadKS_pos (x : Words16) (s : State) : (loadKS x s).pos = s.pos := rfl
@[simp] theorem loadKS_KS (x : Words16) (s : State) : (loadKS x s).KS = x := rfl
@[simp] theorem loadKS_resets (x : Words16) (s : State) : (loadKS x s).resets = s.resets := rfl
@[simp] theorem loadKS_inputs (x : Words16) (s : State) : (loadKS x s).inputs = s.inputs := rfl
@[simp] theorem loadKS_outs (x : Words16) (s : State) : (loadKS x s).outs = s.outs := rfl

@[simp] theorem setKeyed_S (s : State) : (setKeyed s).S = s.S := rfl
@[simp] theorem setKeyed_keyed (s : State) : (setKeyed s).keyed = true := rfl
@[simp] theorem setKeyed_pos (s : State) : (setKeyed s).pos = s.pos := rfl
@[simp] theorem setKeyed_KS (s : State) : (setKeyed s).KS = s.KS := rfl
@[simp] theorem setKeyed_resets (s : State) : (setKeyed s).resets = s.resets := rfl
@[simp] theorem setKeyed_inputs (s : State) : (setKeyed s).inputs = s.inputs := rfl
@[simp] theorem setKeyed_outs (s : State) : (setKeyed s).outs = s.outs := rfl

@[simp] theorem setPos_S (p : Fin 16) (s : State) : (setPos p s).S = s.S := rfl
@[simp] theorem setPos_keyed (p : Fin 16) (s : State) : (setPos p s).keyed = s.keyed := rfl
@[simp] theorem setPos_pos (p : Fin 16) (s : State) : (setPos p s).pos = p := rfl
@[simp] theorem setPos_KS (p : Fin 16) (s : State) : (setPos p s).KS = s.KS := rfl
@[simp] theorem setPos_resets (p : Fin 16) (s : State) : (setPos p s).resets = s.resets := rfl
@[simp] theorem setPos_inputs (p : Fin 16) (s : State) : (setPos p s).inputs = s.inputs := rfl
@[simp] theorem setPos_outs (p : Fin 16) (s : State) : (setPos p s).outs = s.outs := rfl

@[simp] theorem emit_S (o : Output) (s : State) : (emit o s).S = s.S := rfl
@[simp] theorem emit_keyed (o : Output) (s : State) : (emit o s).keyed = s.keyed := rfl
@[simp] theorem emit_pos (o : Output) (s : State) : (emit o s).pos = s.pos := rfl
@[simp] theorem emit_KS (o : Output) (s : State) : (emit o s).KS = s.KS := rfl
@[simp] theorem emit_resets (o : Output) (s : State) : (emit o s).resets = s.resets := rfl
@[simp] theorem emit_inputs (o : Output) (s : State) : (emit o s).inputs = s.inputs := rfl
@[simp] theorem emit_outs (o : Output) (s : State) : (emit o s).outs = s.outs ++ [o] := rfl

@[simp] theorem respond_S (st : Status) (d : Word) (s : State) : (respond st d s).S = s.S := rfl
@[simp] theorem respond_keyed (st : Status) (d : Word) (s : State) : (respond st d s).keyed = s.keyed := rfl
@[simp] theorem respond_pos (st : Status) (d : Word) (s : State) : (respond st d s).pos = s.pos := rfl
@[simp] theorem respond_KS (st : Status) (d : Word) (s : State) : (respond st d s).KS = s.KS := rfl
@[simp] theorem respond_resets (st : Status) (d : Word) (s : State) : (respond st d s).resets = s.resets := rfl
@[simp] theorem respond_inputs (st : Status) (d : Word) (s : State) : (respond st d s).inputs = s.inputs := rfl
@[simp] theorem respond_outs (st : Status) (d : Word) (s : State) : (respond st d s).outs = s.outs ++ [.rsp ⟨st, d⟩] := rfl

@[simp] theorem raiseError_S (st : Status) (s : State) : (raiseError st s).S = s.S := rfl
@[simp] theorem raiseError_keyed (st : Status) (s : State) : (raiseError st s).keyed = s.keyed := rfl
@[simp] theorem raiseError_pos (st : Status) (s : State) : (raiseError st s).pos = s.pos := rfl
@[simp] theorem raiseError_KS (st : Status) (s : State) : (raiseError st s).KS = s.KS := rfl
@[simp] theorem raiseError_resets (st : Status) (s : State) : (raiseError st s).resets = s.resets := rfl
@[simp] theorem raiseError_inputs (st : Status) (s : State) : (raiseError st s).inputs = s.inputs := rfl
@[simp] theorem raiseError_outs (st : Status) (s : State) : (raiseError st s).outs = s.outs ++ [.rsp ⟨st, 0x00000000#32⟩] := rfl

@[simp] theorem resetEngine_S (s : State) : (resetEngine s).S = Config.unspecifiedS (s.resets + 1) := rfl
@[simp] theorem resetEngine_keyed (s : State) : (resetEngine s).keyed = false := rfl
@[simp] theorem resetEngine_pos (s : State) : (resetEngine s).pos = 0 := rfl
@[simp] theorem resetEngine_KS (s : State) : (resetEngine s).KS = Config.unspecifiedKS (s.resets + 1) := rfl
@[simp] theorem resetEngine_resets (s : State) : (resetEngine s).resets = s.resets + 1 := rfl
@[simp] theorem resetEngine_inputs (s : State) : (resetEngine s).inputs = s.inputs := rfl
@[simp] theorem resetEngine_outs (s : State) : (resetEngine s).outs = s.outs := rfl

@[simp] theorem setInputs_S (es : List Event) (s : State) : (setInputs es s).S = s.S := rfl
@[simp] theorem setInputs_keyed (es : List Event) (s : State) : (setInputs es s).keyed = s.keyed := rfl
@[simp] theorem setInputs_pos (es : List Event) (s : State) : (setInputs es s).pos = s.pos := rfl
@[simp] theorem setInputs_KS (es : List Event) (s : State) : (setInputs es s).KS = s.KS := rfl
@[simp] theorem setInputs_resets (es : List Event) (s : State) : (setInputs es s).resets = s.resets := rfl
@[simp] theorem setInputs_inputs (es : List Event) (s : State) : (setInputs es s).inputs = es := rfl
@[simp] theorem setInputs_outs (es : List Event) (s : State) : (setInputs es s).outs = s.outs := rfl

@[simp] theorem pushInput_S (e : Event) (s : State) : (pushInput e s).S = s.S := rfl
@[simp] theorem pushInput_keyed (e : Event) (s : State) : (pushInput e s).keyed = s.keyed := rfl
@[simp] theorem pushInput_pos (e : Event) (s : State) : (pushInput e s).pos = s.pos := rfl
@[simp] theorem pushInput_KS (e : Event) (s : State) : (pushInput e s).KS = s.KS := rfl
@[simp] theorem pushInput_resets (e : Event) (s : State) : (pushInput e s).resets = s.resets := rfl
@[simp] theorem pushInput_inputs (e : Event) (s : State) : (pushInput e s).inputs = e :: s.inputs := rfl
@[simp] theorem pushInput_outs (e : Event) (s : State) : (pushInput e s).outs = s.outs := rfl

@[simp] theorem readS_eq (s : State) (i : Fin 16) : readS s i = s.S[i] := rfl
@[simp] theorem readKS_eq (s : State) (i : Fin 16) : readKS s i = s.KS[i] := rfl

end Sys2Proof.Machine
end

