-- ==== Sys2Proof/Laws/Engine.lean ====
section
/-! SUPPORT. What the parts of the engine's commands do to each field (R132, R133), and what every operation has in
common: it has a next state, gives exactly one output, and does not look at the host's lines. -/

namespace Sys2Proof.Machine

@[simp] theorem endsChunk_iff (p : Fin 16) (last : Bool) : endsChunk p last = true ↔ p = 15 ∨ last = true := by
  simp [endsChunk]

theorem nextPos_of_ends {p : Fin 16} {last : Bool} (h : p = 15 ∨ last = true) : nextPos p last = 0 := by
  simp [nextPos, h]

theorem nextPos_of_not_ends {p : Fin 16} {last : Bool} (h : ¬(p = 15 ∨ last = true)) : nextPos p last = p + 1 := by
  simp [nextPos, h]

section Open
variable (s : State)
@[simp] theorem openChunk_S : (openChunk s).S = s.S := by unfold openChunk; split <;> rfl
@[simp] theorem openChunk_keyed : (openChunk s).keyed = s.keyed := by unfold openChunk; split <;> rfl
@[simp] theorem openChunk_pos : (openChunk s).pos = s.pos := by unfold openChunk; split <;> rfl
@[simp] theorem openChunk_resets : (openChunk s).resets = s.resets := by unfold openChunk; split <;> rfl
@[simp] theorem openChunk_inputs : (openChunk s).inputs = s.inputs := by unfold openChunk; split <;> rfl
@[simp] theorem openChunk_outs : (openChunk s).outs = s.outs := by unfold openChunk; split <;> rfl
theorem openChunk_KS : (openChunk s).KS = if s.pos = 0 then block s.S else s.KS := by unfold openChunk; split <;> rfl
end Open

section Advance
variable (last : Bool) (s : State)
theorem incrementCounter_S : (incrementCounter s).S = s.S.set 12 (s.S[12] + 0x00000001#32) := rfl
theorem advanceChunk_S : (advanceChunk last s).S =
    if s.pos = 15 ∨ last = true then s.S.set 12 (s.S[12] + 0x00000001#32) else s.S := by
  simp only [advanceChunk, setPos_S, endsChunk_iff]; split <;> rfl
@[simp] theorem advanceChunk_keyed : (advanceChunk last s).keyed = s.keyed := by
  simp only [advanceChunk, setPos_keyed]; split <;> rfl
@[simp] theorem advanceChunk_pos : (advanceChunk last s).pos = nextPos s.pos last := rfl
@[simp] theorem advanceChunk_KS : (advanceChunk last s).KS = s.KS := by
  simp only [advanceChunk, setPos_KS]; split <;> rfl
@[simp] theorem advanceChunk_resets : (advanceChunk last s).resets = s.resets := by
  simp only [advanceChunk, setPos_resets]; split <;> rfl
@[simp] theorem advanceChunk_inputs : (advanceChunk last s).inputs = s.inputs := by
  simp only [advanceChunk, setPos_inputs]; split <;> rfl
@[simp] theorem advanceChunk_outs : (advanceChunk last s).outs = s.outs := by
  simp only [advanceChunk, setPos_outs]; split <;> rfl
end Advance

section Proc
variable (data : Word) (last : Bool) (s : State)
theorem procWord_S : (procWord data last s).S =
    if s.pos = 15 ∨ last = true then s.S.set 12 (s.S[12] + 0x00000001#32) else s.S := by
  simp [procWord, advanceChunk_S]
@[simp] theorem procWord_keyed : (procWord data last s).keyed = s.keyed := by simp [procWord]
@[simp] theorem procWord_pos : (procWord data last s).pos = nextPos s.pos last := by simp [procWord]
theorem procWord_KS : (procWord data last s).KS = if s.pos = 0 then block s.S else s.KS := by
  simp [procWord, openChunk_KS]
@[simp] theorem procWord_resets : (procWord data last s).resets = s.resets := by simp [procWord]
@[simp] theorem procWord_inputs : (procWord data last s).inputs = s.inputs := by simp [procWord]
theorem procWord_outs : (procWord data last s).outs =
    s.outs ++ [.rsp ⟨.ok, data ^^^ (if s.pos = 0 then block s.S else s.KS)[s.pos]⟩] := by
  simp [procWord, openChunk_KS]
end Proc

section Init
variable (key : BitVec 256) (nonce : BitVec 96) (s : State)
@[simp] theorem initEngine_S : (initEngine key nonce s).S = constructedState key nonce := rfl
@[simp] theorem initEngine_keyed : (initEngine key nonce s).keyed = true := rfl
@[simp] theorem initEngine_pos : (initEngine key nonce s).pos = 0 := rfl
@[simp] theorem initEngine_KS : (initEngine key nonce s).KS = s.KS := rfl
@[simp] theorem initEngine_resets : (initEngine key nonce s).resets = s.resets := rfl
@[simp] theorem initEngine_inputs : (initEngine key nonce s).inputs = s.inputs := rfl
@[simp] theorem initEngine_outs : (initEngine key nonce s).outs = s.outs ++ [.rsp ⟨.ok, 0x00000000#32⟩] := rfl
end Init

/-- The state an operation leaves. -/
def resultOf (i : Instr) (s : State) : State :=
  match exec i s with
  | .next t => t
  | .fault _ => s
  | .refused _ => s

/-- Every operation has a next state: nothing stops this machine (R191). -/
theorem exec_eq_next (i : Instr) (s : State) : exec i s = .next (resultOf i s) := by cases i <;> rfl

/-- What an operation gives at its output, from the state it meets. -/
def outputOf (i : Instr) (s : State) : Output :=
  match i with
  | .add a b => .word (add32 a b)
  | .xor a b => .word (xor32 a b)
  | .rotl a n => .word (rotl32 a n)
  | .zero => .word zeroWord
  | .one => .word oneWord
  | .qr a b c d =>
    .quad (quarterRound ⟨a, b, c, d⟩).a (quarterRound ⟨a, b, c, d⟩).b (quarterRound ⟨a, b, c, d⟩).c
      (quarterRound ⟨a, b, c, d⟩).d
  | .block x => .block (block x)
  | .init _ _ => .rsp ⟨.ok, 0x00000000#32⟩
  | .proc data _ =>
    if s.keyed then .rsp ⟨.ok, data ^^^ (if s.pos = 0 then block s.S else s.KS)[s.pos]⟩
    else .rsp ⟨.errNotInit, 0x00000000#32⟩
  | .rdctr => if s.keyed then .rsp ⟨.ok, s.S[12]⟩ else .rsp ⟨.errNotInit, 0x00000000#32⟩
  | .rsvd => .rsp ⟨.errIllegalCmd, 0x00000000#32⟩

theorem resultOf_proc_keyed {s : State} (data : Word) (last : Bool) (h : s.keyed = true) :
    resultOf (.proc data last) s = procWord data last s := by simp only [resultOf, exec, execProc, if_pos h]

theorem resultOf_proc_unkeyed {s : State} (data : Word) (last : Bool) (h : s.keyed = false) :
    resultOf (.proc data last) s = raiseError .errNotInit s := by simp [resultOf, exec, execProc, h]

theorem resultOf_rdctr_keyed {s : State} (h : s.keyed = true) :
    resultOf .rdctr s = respond .ok s.S[12] s := by simp [resultOf, exec, execRdctr, h]

theorem resultOf_rdctr_unkeyed {s : State} (h : s.keyed = false) :
    resultOf .rdctr s = raiseError .errNotInit s := by simp [resultOf, exec, execRdctr, h]

theorem resultOf_rsvd (s : State) : resultOf .rsvd s = raiseError .errIllegalCmd s := rfl

theorem resultOf_init (key : BitVec 256) (nonce : BitVec 96) (s : State) :
    resultOf (.init key nonce) s = initEngine key nonce s := rfl

/-- Exactly one output is given (R70). -/
theorem resultOf_outs (i : Instr) (s : State) : (resultOf i s).outs = s.outs ++ [outputOf i s] := by
  cases i with
  | proc data last =>
    rcases Bool.eq_false_or_eq_true s.keyed with h | h
    · rw [resultOf_proc_keyed data last h, procWord_outs]; simp [outputOf, h]
    · rw [resultOf_proc_unkeyed data last h]; simp [outputOf, h]
  | rdctr =>
    rcases Bool.eq_false_or_eq_true s.keyed with h | h
    · rw [resultOf_rdctr_keyed h]; simp [outputOf, h]
    · rw [resultOf_rdctr_unkeyed h]; simp [outputOf, h]
  | _ => rfl

/-- An operation takes nothing from the host's events. -/
@[simp] theorem resultOf_inputs (i : Instr) (s : State) : (resultOf i s).inputs = s.inputs := by
  cases i with
  | proc data last =>
    rcases Bool.eq_false_or_eq_true s.keyed with h | h
    · rw [resultOf_proc_keyed data last h, procWord_inputs]
    · rw [resultOf_proc_unkeyed data last h, raiseError_inputs]
  | rdctr =>
    rcases Bool.eq_false_or_eq_true s.keyed with h | h
    · rw [resultOf_rdctr_keyed h, respond_inputs]
    · rw [resultOf_rdctr_unkeyed h, raiseError_inputs]
  | _ => rfl

/-- An operation is no reset. -/
@[simp] theorem resultOf_resets (i : Instr) (s : State) : (resultOf i s).resets = s.resets := by
  cases i with
  | proc data last =>
    rcases Bool.eq_false_or_eq_true s.keyed with h | h
    · rw [resultOf_proc_keyed data last h, procWord_resets]
    · rw [resultOf_proc_unkeyed data last h, raiseError_resets]
  | rdctr =>
    rcases Bool.eq_false_or_eq_true s.keyed with h | h
    · rw [resultOf_rdctr_keyed h, respond_resets]
    · rw [resultOf_rdctr_unkeyed h, raiseError_resets]
  | _ => rfl

/-- The same state with other events waiting and other outputs given. -/
def withLines (es : List Event) (os : List Output) (s : State) : State := { s with inputs := es, outs := os }

/-- An operation looks at neither of the host's lines: with others, it does the same to the engine. -/
theorem resultOf_withLines (i : Instr) (s : State) (es : List Event) (os : List Output) :
    resultOf i (withLines es os s) = withLines es (os ++ [outputOf i s]) (resultOf i s) := by
  have hk : (withLines es os s).keyed = s.keyed := rfl
  cases i with
  | proc data last =>
    rcases Bool.eq_false_or_eq_true s.keyed with h | h
    · rw [resultOf_proc_keyed data last h, resultOf_proc_keyed data last (hk.trans h)]
      exact State.ext (by simp [procWord_S, withLines]) (by simp [withLines]) (by simp [withLines])
        (by simp [procWord_KS, withLines]) (by simp [withLines]) (by simp [withLines])
        (by simp [procWord_outs, withLines, outputOf, h])
    · rw [resultOf_proc_unkeyed data last h, resultOf_proc_unkeyed data last (hk.trans h)]
      simp only [outputOf, h]; rfl
  | rdctr =>
    rcases Bool.eq_false_or_eq_true s.keyed with h | h
    · rw [resultOf_rdctr_keyed h, resultOf_rdctr_keyed (hk.trans h)]
      simp only [outputOf, h]; rfl
    · rw [resultOf_rdctr_unkeyed h, resultOf_rdctr_unkeyed (hk.trans h)]
      simp only [outputOf, h]; rfl
  | _ => rfl

/-- What one step can do: nothing, one operation, or a reset (R47, R70, R180, R181). -/
theorem step_cases {s t : State} (h : step s = .next t) :
    (s.inputs = [] ∧ t = s) ∨
    (∃ p rest, s.inputs = .present p :: rest ∧ t = resultOf (decode p) (setInputs rest s)) ∨
    (∃ e rest, s.inputs = e :: rest ∧ (e = .reset ∨ ∃ c, e = .resetInFlight c) ∧
      t = resetEngine (setInputs rest s)) := by
  unfold step at h
  split at h
  · next e => exact .inl ⟨e, (Host.Outcome.next.inj h).symm⟩
  · next p rest e =>
    rw [exec_eq_next] at h
    exact .inr (.inl ⟨p, rest, e, (Host.Outcome.next.inj h).symm⟩)
  · next rest e => exact .inr (.inr ⟨_, rest, e, .inl rfl, (Host.Outcome.next.inj h).symm⟩)
  · next c rest e => exact .inr (.inr ⟨_, rest, e, .inr ⟨c, rfl⟩, (Host.Outcome.next.inj h).symm⟩)

end Sys2Proof.Machine
end

