-- ==== Sys2Proof/Laws/Run.lean ====
section
/-! SUPPORT. Runs of the machine: the first step of a run, and a run of presented operations one after the other. -/

namespace Sys2Proof.Machine

theorem run_zero (s : State) : Host.Core.run core 0 s = .next s := rfl

theorem run_succ {s t : State} (n : Nat) (h : step s = .next t) :
    Host.Core.run core (n + 1) s = Host.Core.run core n t := by
  have hc : core.step s = .next t := h
  simp only [Host.Core.run, hc]

/-- A run is a first step and the run that follows it. -/
theorem run_succ_inv {s t : State} {n : Nat} (h : Host.Core.run core (n + 1) s = .next t) :
    ∃ u, step s = .next u ∧ Host.Core.run core n u = .next t := by
  simp only [Host.Core.run] at h
  split at h
  · next u hu => exact ⟨u, hu, h⟩
  · cases h
  · cases h

theorem decode_encode_of (i : Instr) : decode (encode i) = i := by
  cases i with
  | proc data last => cases last <;> rfl
  | _ => rfl

@[simp] theorem present_nil : present [] = [] := rfl

@[simp] theorem present_cons (i : Instr) (is : List Instr) : present (i :: is) = .present (encode i) :: present is := rfl

@[simp] theorem present_append (is js : List Instr) : present (is ++ js) = present is ++ present js := by
  simp [present]

/-- The states a list of operations goes through, the last of them. -/
def resultsOf (is : List Instr) (s : State) : State := is.foldl (fun t i => resultOf i t) s

theorem resultsOf_cons (i : Instr) (is : List Instr) (s : State) :
    resultsOf (i :: is) s = resultsOf is (resultOf i s) := rfl

theorem resultsOf_append (is js : List Instr) (s : State) : resultsOf (is ++ js) s = resultsOf js (resultsOf is s) := by
  simp [resultsOf]

/-- An operation does the same whatever events wait behind it. -/
theorem resultOf_setInputs (i : Instr) (es : List Event) (s : State) :
    resultOf i (setInputs es s) = setInputs es (resultOf i s) := by
  have h := resultOf_withLines i s es s.outs
  rw [← resultOf_outs] at h
  exact h

/-- A run through presented operations is the operations one after the other (R47). -/
theorem run_present (is : List Instr) (rest : List Event) (s : State) (h : s.inputs = present is ++ rest) :
    Host.Core.run core is.length s = .next (setInputs rest (resultsOf is s)) := by
  induction is generalizing s with
  | nil =>
    have e : setInputs rest s = s := by rw [show rest = s.inputs from by simpa using h.symm]; rfl
    rw [List.length_nil, run_zero]
    exact congrArg _ e.symm
  | cons i is ih =>
    rw [present_cons, List.cons_append] at h
    have hs : step s = .next (setInputs (present is ++ rest) (resultOf i s)) := by
      unfold step
      rw [h]
      simp only [decode_encode_of, exec_eq_next, resultOf_setInputs]
    rw [List.length_cons, run_succ _ hs, ih _ rfl, resultsOf_cons]
    have k : ∀ (js : List Instr) (u : State) (es : List Event),
        resultsOf js (setInputs es u) = setInputs es (resultsOf js u) := by
      intro js
      induction js with
      | nil => intro u es; rfl
      | cons j js ihj => intro u es; rw [resultsOf_cons, resultOf_setInputs, ihj, ← resultsOf_cons]
    rw [k]
    rfl

end Sys2Proof.Machine
end

