-- ==== Sys2Proof/Laws/Clock.lean ====
section
/-! SUPPORT. One clock edge in each of its cases (R70, R180): reset, a command in flight, acceptance, idling. -/

namespace Sys2Proof.Machine

theorem clockEdge_reset {p : Pins} (lat : Config.Latencies) (c : ClockState) (h : p.rst = true) :
    clockEdge lat p c = .next { st := resetEngine c.st, flight := none } := by simp [clockEdge, h]

theorem clockEdge_wait {p : Pins} {f : Flight} {c : ClockState} (lat : Config.Latencies) (h : p.rst = false)
    (hf : c.flight = some f) : clockEdge lat p c = .next (waitForResponse f c.st) := by simp [clockEdge, h, hf]

theorem clockEdge_idle {p : Pins} {c : ClockState} (lat : Config.Latencies) (h : p.rst = false) (hf : c.flight = none)
    (hv : p.cmdValid = false) : clockEdge lat p c = .next c := by simp [clockEdge, h, hf, hv]

/-- The clocked state just after a command is accepted: its state change made, its one output kept for later. -/
def acceptedState (lat : Config.Latencies) (c : Command) (s : State) : ClockState :=
  { st := { resultOf (decodeCommand c) s with outs := s.outs }
    flight := some { pending := [outputOf (decodeCommand c) s], left := commandLatency lat c s } }

theorem acceptCommand_eq (lat : Config.Latencies) (c : Command) (s : State) :
    acceptCommand lat c s = .next (acceptedState lat c s) := by
  simp only [acceptCommand, exec_eq_next, acceptedState, resultOf_outs, List.drop_left]

theorem clockEdge_accept {p : Pins} {c : ClockState} (lat : Config.Latencies) (h : p.rst = false) (hf : c.flight = none)
    (hv : p.cmdValid = true) : clockEdge lat p c = .next (acceptedState lat p.cmd c.st) := by
  simp [clockEdge, h, hf, hv, acceptCommand_eq]

/-- A run of clock edges is a first edge and the run that follows it. -/
theorem clockRun_cons {p : Pins} {c c' : ClockState} (lat : Config.Latencies) (ps : List Pins)
    (h : clockEdge lat p c = .next c') : clockRun lat (p :: ps) c = clockRun lat ps c' := by simp only [clockRun, h]

/-- While a command is in flight and its latency has not run out, edges only count it down. -/
theorem clockRun_countdown (lat : Config.Latencies) (f : Flight) (s : State) (ps : List Pins)
    (h : ∀ p ∈ ps, p.rst = false) (hl : ps.length ≤ f.left) :
    clockRun lat ps { st := s, flight := some f } =
      .next { st := s, flight := some { f with left := f.left - ps.length } } := by
  induction ps generalizing f with
  | nil => simp [clockRun]
  | cons p ps ih =>
    rw [List.length_cons] at hl
    have hp : p.rst = false := h p (List.mem_cons_self ..)
    have hw : waitForResponse f s = { st := s, flight := some { f with left := f.left - 1 } } := by
      rw [waitForResponse, if_neg (by omega)]
    rw [clockRun_cons lat ps (clockEdge_wait lat hp rfl), hw,
      ih { f with left := f.left - 1 } (fun q hq => h q (List.mem_cons_of_mem _ hq)) (by simp only; omega)]
    simp only [List.length_cons]
    congr 4
    omega

end Sys2Proof.Machine
end

