-- ==== Sys2Proof/Laws/PerInstr.lean ====
section
/-! SUPPORT. One statement about the syntax and encoding of each operation, one lemma per constructor: the code its encoding
puts on the select field is its row of the opcode table (R60). -/

namespace Sys2Proof.Laws.Select

/-- The encoding's select code meets the row's match under the row's mask, and has no bit outside the mask. -/
def Statement (i : Instr) : Prop :=
  selectCode (encode i) &&& (tableMatchMask i).2 = (tableMatchMask i).1 ∧
    selectCode (encode i) = (tableMatchMask i).1

theorem add (a b : Word) : Statement (.add a b) := by
  refine ⟨?_, rfl⟩; simp [selectCode, encode, tableMatchMask]
theorem xor (a b : Word) : Statement (.xor a b) := by
  refine ⟨?_, rfl⟩; simp [selectCode, encode, tableMatchMask]
theorem rotl (a : Word) (n : BitVec 5) : Statement (.rotl a n) := by
  refine ⟨?_, rfl⟩; simp [selectCode, encode, tableMatchMask]
theorem zero : Statement .zero := by
  refine ⟨?_, rfl⟩; simp [selectCode, encode, tableMatchMask]
theorem one : Statement .one := by
  refine ⟨?_, rfl⟩; simp [selectCode, encode, tableMatchMask]
theorem qr (a b c d : Word) : Statement (.qr a b c d) := by
  refine ⟨?_, rfl⟩; simp [selectCode, encode, tableMatchMask]
theorem block (x : Words16) : Statement (.block x) := by
  refine ⟨?_, rfl⟩; simp [selectCode, encode, tableMatchMask]
theorem init (key : BitVec 256) (nonce : BitVec 96) : Statement (.init key nonce) := by
  refine ⟨?_, rfl⟩; simp [selectCode, encode, tableMatchMask]
theorem proc (data : Word) (last : Bool) : Statement (.proc data last) := by
  refine ⟨?_, rfl⟩; simp [selectCode, encode, tableMatchMask]
theorem rdctr : Statement .rdctr := by
  refine ⟨?_, rfl⟩; simp [selectCode, encode, tableMatchMask]
theorem rsvd : Statement .rsvd := by
  refine ⟨?_, rfl⟩; simp [selectCode, encode, tableMatchMask]

end Sys2Proof.Laws.Select
end

