-- ==== Sys2Proof/Laws/Process.lean ====
section
/-! SUPPORT. PROCESS chunk by chunk (R130), MSG Word by Word (R73), and the Words of a block behind a counter. -/

namespace Sys2Proof.Machine

theorem nextBlockState_eq (x : Words16) : nextBlockState x = x.set 12 (x[12] + 0x00000001#32) := rfl

/-- More passes than Words change nothing: the loop ends by itself. -/
theorem processChunks_of_le (n : Nat) (x : Words16) (ws : List Word) (h : ws.length ≤ n) :
    processChunks n x ws = process x ws := by
  have key : ∀ (k m : Nat) (y : Words16) (us : List Word), us.length ≤ k → us.length ≤ m →
      processChunks k y us = processChunks m y us := by
    intro k
    induction k with
    | zero =>
      intro m y us hk hm
      obtain rfl : us = [] := List.eq_nil_of_length_eq_zero (Nat.le_zero.1 hk)
      cases m <;> simp [processChunks]
    | succ k ih =>
      intro m y us hk hm
      by_cases hu : us = []
      · subst hu
        cases m <;> simp [processChunks]
      · cases m with
        | zero => exact absurd (List.eq_nil_of_length_eq_zero (Nat.le_zero.1 hm)) hu
        | succ m =>
          have hl : (us.drop 16).length ≤ k ∧ (us.drop 16).length ≤ m := by
            have : 0 < us.length := List.length_pos_iff.2 hu
            rw [List.length_drop]
            omega
          simp only [processChunks, if_neg hu, ih m _ _ hl.1 hl.2]
  exact key n ws.length x ws h (Nat.le_refl _)

@[simp] theorem process_nil (x : Words16) : process x [] = ([], x) := rfl

/-- PROCESS on a non-empty message: the first chunk, then the rest from the next counter (R130). -/
theorem process_chunk (x : Words16) (ws : List Word) (h : ws ≠ []) :
    process x ws =
      (List.zipWith xor32 (ws.take 16) (block x).toList ++ (process (nextBlockState x) (ws.drop 16)).1,
       (process (nextBlockState x) (ws.drop 16)).2) := by
  have hp : 0 < ws.length := List.length_pos_iff.2 h
  rw [← processChunks_of_le (ws.length - 1) (nextBlockState x) (ws.drop 16) (by rw [List.length_drop]; omega)]
  conv_lhs => rw [process, show ws.length = ws.length - 1 + 1 by omega]
  simp only [processChunks, if_neg h]

/-- An induction over a message chunk by chunk. -/
theorem chunk_induction {P : List Word → Prop} (nil : P []) (chunk : ∀ ws, ws ≠ [] → P (ws.drop 16) → P ws)
    (ws : List Word) : P ws := by
  have key : ∀ n (us : List Word), us.length ≤ n → P us := by
    intro n
    induction n with
    | zero =>
      intro us h
      obtain rfl : us = [] := List.eq_nil_of_length_eq_zero (Nat.le_zero.1 h)
      exact nil
    | succ n ih =>
      intro us h
      by_cases hu : us = []
      · exact hu ▸ nil
      · refine chunk us hu (ih _ ?_)
        have : 0 < us.length := List.length_pos_iff.2 hu
        rw [List.length_drop]
        omega
  exact key ws.length ws (Nat.le_refl _)

@[simp] theorem msg_nil : msg [] = [] := rfl

theorem msg_cons (w : Word) (ws : List Word) : msg (w :: ws) = .proc w ws.isEmpty :: msg ws := rfl

@[simp] theorem msg_length (ws : List Word) : (msg ws).length = ws.length := by
  induction ws with
  | nil => rfl
  | cons w ws ih => rw [msg_cons, List.length_cons, List.length_cons, ih]

end Sys2Proof.Machine
end

