-- ==== Sys2Proof/Machine/TraceText.lean ====
section
/-! DEFINITION. The textual form of commands and responses in traces (R72): one per line, hexadecimal with the most
significant digit first. -/

namespace Sys2Proof.Machine

/-- One hexadecimal digit, lower case as the spec's traces print it. -/
def hexDigit (n : Nat) : Char := "0123456789abcdef".toList.getD n '?'

/-- The `k` low hexadecimal digits of `n`, the most significant first. -/
def hexDigits : Nat → Nat → List Char
  | 0, _ => []
  | k + 1, n => hexDigits k (n / 16) ++ [hexDigit (n % 16)]

/-- A command as R72 writes it; an ignored field is not written, and the absence of `last` means `cmd_last = 0`. -/
def commandText (c : Command) : List Char :=
  match decodeCommand c with
  | .init key nonce =>
    "INIT  key=".toList ++ hexDigits 64 key.toNat ++ " nonce=".toList ++ hexDigits 24 nonce.toNat
  | .proc data last => "PROC  ".toList ++ hexDigits 8 data.toNat ++ (if last then " last".toList else [])
  | .rdctr => "RDCTR".toList
  | _ => "RSVD".toList

/-- The name of a status (R68, R72). -/
def statusText : Status → List Char
  | .ok => "OK".toList
  | .errNotInit => "ERR_NOT_INIT".toList
  | .errIllegalCmd => "ERR_ILLEGAL_CMD".toList

/-- A response as R72 writes it after `->`: the status, then `rsp_data` when the command returns data (PROC and RDCTR
answered OK); for INIT and errors `rsp_data` is 0 and is not written. -/
def responseText (c : Command) (r : Response) : List Char :=
  match decodeCommand c, r.status with
  | .proc _ _, .ok => statusText r.status ++ ' ' :: hexDigits 8 r.data.toNat
  | .rdctr, .ok => statusText r.status ++ ' ' :: hexDigits 8 r.data.toNat
  | _, _ => statusText r.status

/-- One line of a trace (R72). DESIGN CHOICE (log entry 17): one space on each side of the arrow. -/
def traceLine (c : Command) (r : Response) : List Char :=
  commandText c ++ " -> ".toList ++ responseText c r

/-- The line of a reset (R72): "not a command", one or more clock edges with `rst = 1`; it has no response. -/
def resetLine : List Char := "RESET".toList

end Sys2Proof.Machine
end

