-- ==== Sys2Proof/Tests/Slice0.lean ====
section
/-! SUPPORT. The model's own tests: ill-formed index groups refused, encodings written out from R61 to R66, the spec's derived
vectors (95_test_vectors, each named in its comment) on one operation each, and for every obligation with hypotheses
a concrete state and operands that meet them. -/

namespace Sys2Proof.Machine

/-! ### Well-formedness: a group with two equal slots is refused, for each of the six pairs (R101, R104) -/

theorem test_group_ab : (IndexGroup.mk 4 4 8 12).wf = false := by decide
theorem test_group_ac : (IndexGroup.mk 0 4 0 12).wf = false := by decide
theorem test_group_ad : (IndexGroup.mk 0 4 8 0).wf = false := by decide
theorem test_group_bc : (IndexGroup.mk 0 4 4 12).wf = false := by decide
theorem test_group_bd : (IndexGroup.mk 0 4 8 4).wf = false := by decide
theorem test_group_cd : (IndexGroup.mk 0 4 8 8).wf = false := by decide

/-! ### Decoding: words written out from the spec's encodings -/

/-- R61: `op = 0` is ADD, `op = 1` is XOR. -/
theorem test_decode_w : decode (.wordAddXor 0b0#1 7#32 9#32) = .add 7#32 9#32 ∧
    decode (.wordAddXor 0b1#1 7#32 9#32) = .xor 7#32 9#32 := by decide

/-- R62: the amount is the 5-bit port as it stands. -/
theorem test_decode_r : decode (.wordRotate 7#32 0b11111#5) = .rotl 7#32 31#5 := by decide

/-- R63, R84, R85: formats Q and K. -/
theorem test_decode_q : decode (.quarterRound 1#32 2#32 3#32 4#32) = .qr 1#32 2#32 3#32 4#32 ∧
    decode .wiredZero = .zero ∧ decode .wiredOne = .one := by decide

/-- R66: the four opcodes; fields a command ignores hold junk here (R71). -/
theorem test_decode_e :
    decode (.engine ⟨0b00#2, 0b1#1, 0xFFFFFFFF#32, 2#256, 3#96⟩) = .init 2#256 3#96 ∧
    decode (.engine ⟨0b01#2, 0b1#1, 0x12345678#32, 2#256, 3#96⟩) = .proc 0x12345678#32 true ∧
    decode (.engine ⟨0b10#2, 0b1#1, 0x12345678#32, 2#256, 3#96⟩) = .rdctr ∧
    decode (.engine ⟨0b11#2, 0b1#1, 0x12345678#32, 2#256, 3#96⟩) = .rsvd := by decide

/-- The opcode table's numbers: format E in a byte, format W in a single bit, and no module without a select bit. -/
theorem test_table_words : decodeTableWord 8 2 = some .rdctr ∧ decodeTableWord 2 3 = some .rsvd ∧
    decodeTableWord 1 1 = some (.xor 0 0) ∧ decodeTableWord 0 0 = none ∧ decodeTableWord 2 4 = none := by decide

/-! ### Small states -/

/-- The response list of an operation's next state. -/
def outsAfter (i : Instr) (s : State) : List Output := (resultOf i s).outs

/-- An engine with these contents, no event before it and no output behind it. -/
def engineOf (x : Words16) (keyed : Bool) (p : Fin 16) (ks : Words16) : State :=
  { S := x, keyed := keyed, pos := p, KS := ks, resets := 0, inputs := [], outs := [] }

/-- The state of V-BLK-1 (all-zero key and nonce) with a counter. -/
def zeroKeyState (ctr : Word) : Words16 :=
  #v[0x61707865, 0x3320646e, 0x79622d32, 0x6b206574, 0, 0, 0, 0, 0, 0, 0, 0, ctr, 0, 0, 0]

/-- Sixteen Words to tell apart: Word i is i. -/
def counting : Words16 := #v[0, 1, 2, 3, 4, 5, 6, 7, 8, 9, 10, 11, 12, 13, 14, 15]

/-- Keyed, in the middle of a chunk (V-ENG-12 to V-ENG-14: pos 3, counter 7). -/
def midChunk : State := engineOf (zeroKeyState 7) true 3 counting

/-- Keyed, no chunk open, the all-zero key and nonce (V-ENG-5's end). -/
def freshEngine : State := engineOf (zeroKeyState 0) true 0 counting

/-- After a reset, with known contents in place of the unspecified ones. -/
def unkeyedEngine : State := engineOf counting false 0 counting

/-! ### One operation each, expected values from 95_test_vectors -/

/-- V-ADD-2 and V-ADD-7. -/
theorem test_add : outsAfter (.add 0xffffffff 0x00000001) unkeyedEngine = [.word 0x00000000] ∧
    outsAfter (.add 0x61707865 0x03020100) midChunk = [.word 0x64727965] := by decide

/-- V-XOR-4 and V-XOR-6. -/
theorem test_xor : outsAfter (.xor 0x01234567 0x12131415) unkeyedEngine = [.word 0x13305172] ∧
    outsAfter (.xor 0x11111111 0x01020304) midChunk = [.word 0x10131215] := by decide

/-- V-ROT-1, V-ROT-6, V-ROT-12: amounts 0, 31 and one the hardware never uses. -/
theorem test_rotl : outsAfter (.rotl 0x12345678 0) midChunk = [.word 0x12345678] ∧
    outsAfter (.rotl 0x12345678 31) midChunk = [.word 0x091a2b3c] ∧
    outsAfter (.rotl 0xdeadbeef 4) midChunk = [.word 0xeadbeefd] := by decide

/-- V-K-1 and V-K-2. -/
theorem test_constants : outsAfter .zero midChunk = [.word 0x00000000] ∧ outsAfter .one midChunk = [.word 0x00000001] := by
  decide

/-- V-QR-4: one bit in b. -/
theorem test_qr_b : outsAfter (.qr 0 1 0 0) midChunk = [.quad 0x10001001 0x88888808 0x01110110 0x01100110] := by decide

/-- V-QR-6: one bit in d. -/
theorem test_qr_d : outsAfter (.qr 0 0 0 1) midChunk = [.quad 0x10000000 0x80800808 0x01010010 0x01000010] := by decide

/-- V-QR-8: the whole array before and after QRS on slots 2, 7, 8, 13. -/
theorem test_qrs : qrs ⟨2, 7, 8, 13⟩
      #v[0x879531e0, 0xc5ecf37d, 0x516461b1, 0xc9a62f8a, 0x44c20ef3, 0x3390af7f, 0xd9fc690b, 0x2a5f714c,
         0x53372767, 0xb00a5631, 0x974c541a, 0x359e9963, 0x5c971061, 0x3d631689, 0x2098d9d6, 0x91dbd320] =
      #v[0x879531e0, 0xc5ecf37d, 0xbdb886dc, 0xc9a62f8a, 0x44c20ef3, 0x3390af7f, 0xd9fc690b, 0xcfacafd2,
         0xe46bea80, 0xb00a5631, 0x974c541a, 0x359e9963, 0x5c971061, 0xccc07c79, 0x2098d9d6, 0x91dbd320] := by decide

/-- V-GK-3: the block of a state with every Word of key, counter and nonce in use. -/
theorem test_block : block
      #v[0x61707865, 0x3320646e, 0x79622d32, 0x6b206574, 0x03020100, 0x07060504, 0x0b0a0908, 0x0f0e0d0c,
         0x13121110, 0x17161514, 0x1b1a1918, 0x1f1e1d1c, 0x00000001, 0x09000000, 0x4a000000, 0x00000000] =
      #v[0xe4e7f110, 0x15593bd1, 0x1fdd0f50, 0xc47120a3, 0xc7f4d1c7, 0x0368c033, 0x9aaa2204, 0x4e6cd4c3,
         0x466482d2, 0x09aa9f07, 0x05d7c214, 0xa2028bd9, 0xd19c12b5, 0xb94e16de, 0xe883d0cb, 0x4e3c50a2] := by
  decide +kernel

/-- P2's INIT in the middle of a chunk (V-ENG-14): S rebuilt most-significant Word first, counter and pos 0. -/
theorem test_init :
    (resultOf (.init 0x03020100070605040b0a09080f0e0d0c13121110171615141b1a19181f1e1d1c 0x000000004a00000000000000)
      midChunk).S =
      #v[0x61707865, 0x3320646e, 0x79622d32, 0x6b206574, 0x03020100, 0x07060504, 0x0b0a0908, 0x0f0e0d0c,
         0x13121110, 0x17161514, 0x1b1a1918, 0x1f1e1d1c, 0x00000000, 0x00000000, 0x4a000000, 0x00000000] ∧
    (resultOf (.init 1 2) midChunk).pos = 0 ∧ (resultOf (.init 1 2) unkeyedEngine).keyed = true ∧
    outsAfter (.init 1 2) midChunk = [.rsp ⟨.ok, 0⟩] := by decide

/-- V-ENG-15: a one-Word chunk at the last counter meets V-BLK-7, and the counter wraps to 0 with status OK. -/
theorem test_proc_wrap :
    outsAfter (.proc 0 true) (engineOf (zeroKeyState 0xffffffff) true 0 counting) = [.rsp ⟨.ok, 0x09cde4ac⟩] ∧
    (resultOf (.proc 0 true) (engineOf (zeroKeyState 0xffffffff) true 0 counting)).S[12] = 0 := by decide +kernel

/-- V-ENG-10 and V-ENG-11: at pos 15 the chunk closes with one increment, `last` or not. -/
theorem test_proc_full : ∀ last : Bool,
    outsAfter (.proc 0xff last) (engineOf (zeroKeyState 7) true 15 counting) = [.rsp ⟨.ok, 0xf0⟩] ∧
    (resultOf (.proc 0xff last) (engineOf (zeroKeyState 7) true 15 counting)).pos = 0 ∧
    (resultOf (.proc 0xff last) (engineOf (zeroKeyState 7) true 15 counting)).S[12] = 8 := by decide

/-- V-ENG-2: an unkeyed engine drops the Word; nothing is closed. -/
theorem test_proc_unkeyed : outsAfter (.proc 0x12345678 true) unkeyedEngine = [.rsp ⟨.errNotInit, 0⟩] ∧
    (resultOf (.proc 0x12345678 true) unkeyedEngine).S = counting := by decide

/-- V-ENG-13 and V-ENG-3. -/
theorem test_rdctr : outsAfter .rdctr midChunk = [.rsp ⟨.ok, 7⟩] ∧ (resultOf .rdctr midChunk).pos = 3 ∧
    outsAfter .rdctr unkeyedEngine = [.rsp ⟨.errNotInit, 0⟩] := by decide

/-- V-ENG-12 and V-ENG-4. -/
theorem test_rsvd : outsAfter .rsvd midChunk = [.rsp ⟨.errIllegalCmd, 0⟩] ∧ (resultOf .rsvd midChunk).pos = 3 ∧
    outsAfter .rsvd unkeyedEngine = [.rsp ⟨.errIllegalCmd, 0⟩] := by decide

/-! ### The step, the clock, the trace -/

/-- The outputs and the status fields after one step. -/
def stepView (s : State) : Option (List Output × Bool × Fin 16) :=
  match step s with
  | .next t => some (t.outs, t.keyed, t.pos)
  | _ => none

/-- V-ENG-5 and V-ENG-1 as the first event after reset, through the opcode table's numbers. -/
theorem test_step_first : stepView (State.reset.withFetchWord 8 0) = some ([.rsp ⟨.ok, 0⟩], true, 0) ∧
    stepView (State.reset.withFetchWord 8 1) = some ([.rsp ⟨.errNotInit, 0⟩], false, 0) := by decide

/-- V-ENG-16: reset from the middle of a chunk gives no output. -/
theorem test_step_reset : stepView { midChunk with inputs := [.reset] } = some ([], false, 0) := by decide

/-- What the pins show after one edge with this command accepted, the next edge's pins idle. -/
def answerAfterAccept (lat : Config.Latencies) (c : Command) (s : State) : Option (Bool × Option Response) :=
  match clockEdge lat { rst := false, cmdValid := true, cmd := c } { st := s, flight := none } with
  | .next c' =>
    some (cmdReady { rst := false, cmdValid := false, cmd := c } c',
      rspPins { rst := false, cmdValid := false, cmd := c } c')
  | _ => none

/-- R70: with latency 0 the response of RDCTR stands in the next cycle, with latency 1 not yet; the engine is not ready. -/
theorem test_clock_rdctr :
    answerAfterAccept ⟨9, 9, 9, 0, 9⟩ ⟨0b10#2, 0, 0, 0, 0⟩ midChunk = some (false, some ⟨.ok, 7⟩) ∧
    answerAfterAccept ⟨9, 9, 9, 1, 9⟩ ⟨0b10#2, 0, 0, 0, 0⟩ midChunk = some (false, none) := by decide

/-- P4's line for its third PROC (R72). -/
theorem test_trace_proc :
    traceLine { op := 0b01#2, last := 1, data := 0xffffffff, key := 0, nonce := 0 } { status := .ok, data := 0x1a95a2bf } =
      "PROC  ffffffff last -> OK 1a95a2bf".toList := by decide

/-- P2's INIT and P7's error lines (R72). -/
theorem test_trace_others :
    traceLine
      { op := 0b00#2, last := 0, data := 0
        key := 0x03020100070605040b0a09080f0e0d0c13121110171615141b1a19181f1e1d1c, nonce := 0x4a00000000000000 }
      { status := .ok, data := 0 } =
      ("INIT  key=03020100070605040b0a09080f0e0d0c13121110171615141b1a19181f1e1d1c" ++
        " nonce=000000004a00000000000000 -> OK").toList ∧
    traceLine { op := 0b10#2, last := 0, data := 0, key := 0, nonce := 0 } { status := .errNotInit, data := 0 } =
      "RDCTR -> ERR_NOT_INIT".toList ∧
    traceLine { op := 0b11#2, last := 0, data := 0, key := 0, nonce := 0 } { status := .errIllegalCmd, data := 0 } =
      "RSVD -> ERR_ILLEGAL_CMD".toList := by decide

/-! ### Witnesses: the hypotheses of each obligation can be met together -/

theorem witness_RotlMovesEveryBit : (0#5).toNat = 0 ∧ 1 ≤ (1#5).toNat ∧ 1 ≤ (31#5).toNat ∧ (0 : Nat) < 32 ∧ 31 < 32 := by decide

/-- V-QR-1's intermediates. -/
theorem witness_QuarterRoundFollowsTheTwelveSteps :
    (0x12131415#32 = 0x11111111 + 0x01020304 ∧ 0x13305172#32 = 0x01234567 ^^^ 0x12131415 ∧
      0x51721330#32 = rotl32 0x13305172 16 ∧ 0xecff8273#32 = 0x9b8d6f43 + 0x51721330) ∧
    (0xedfd8177#32 = 0x01020304 ^^^ 0xecff8273 ∧ 0xd8177edf#32 = rotl32 0xedfd8177 12 ∧
      0xea2a92f4#32 = 0x12131415 + 0xd8177edf ∧ 0xbb5881c4#32 = 0x51721330 ^^^ 0xea2a92f4) ∧
    (0x5881c4bb#32 = rotl32 0xbb5881c4 8 ∧ 0x4581472e#32 = 0xecff8273 + 0x5881c4bb ∧
      0x9d9639f1#32 = 0xd8177edf ^^^ 0x4581472e ∧ 0xcb1cf8ce#32 = rotl32 0x9d9639f1 7) := by decide

theorem witness_QrsUpdatesItsFourSlots :
    (IndexGroup.mk 2 7 8 13).wf = true ∧ (0 : Fin 16) ≠ 2 ∧ (0 : Fin 16) ≠ 7 ∧ (0 : Fin 16) ≠ 8 ∧ (0 : Fin 16) ≠ 13 ∧
    ∃ x : Words16, x[2] = 0x516461B1#32 ∧ x[7] = 0x2A5F714C#32 ∧ x[8] = 0x53372767#32 ∧ x[13] = 0x3D631689#32 :=
  ⟨by decide, by decide, by decide, by decide, by decide,
   #v[0, 0, 0x516461B1, 0, 0, 0, 0, 0x2A5F714C, 0x53372767, 0, 0, 0, 0, 0x3D631689, 0, 0], by decide⟩

theorem witness_ColumnPassMixesTheColumns :
    IndexGroup.mk 3 7 11 15 ∈ columnGroups ∧ columnGroups.reverse.Perm columnGroups := by decide

theorem witness_DiagonalPassMixesTheDiagonals :
    IndexGroup.mk 3 4 9 14 ∈ diagonalGroups ∧ diagonalGroups.reverse.Perm diagonalGroups := by decide

theorem witness_DiagonalsWrapAroundTheMatrix : 0 < 4 ∧ 3 < 4 ∧ IndexGroup.mk 1 6 11 12 ∈ diagonalGroups := by decide

theorem witness_RoundsAreBijective : (0x00000000#32) ≠ 0x00000001#32 := by decide

/-- A command with each opcode: the decoding clauses of INIT, PROC, RDCTR and RSVD. -/
theorem witness_opcodes : (Command.mk 0b00#2 0 0 0 0).op = 0b00#2 ∧ (Command.mk 0b01#2 0 0 0 0).op = 0b01#2 ∧
    (Command.mk 0b10#2 0 0 0 0).op = 0b10#2 ∧ (Command.mk 0b11#2 0 0 0 0).op = 0b11#2 := by decide

/-- An INIT has a next state from the reset state (ConstantsSpellTheString, ProcProcessesOneWord, RdctrReturnsTheCounter,
NoStateIsStuck). -/
theorem witness_initHasNext : exec (.init 0 0) State.reset = .next (initEngine 0 0 State.reset) := rfl

/-- Unkeyed; keyed with pos 0, 3 and 15, and the block that KS becomes or the KS that stays. -/
theorem witness_ProcProcessesOneWord :
    unkeyedEngine.keyed = false ∧
    (freshEngine.keyed = true ∧ block freshEngine.S = if freshEngine.pos = 0 then block freshEngine.S else freshEngine.KS) ∧
    (midChunk.keyed = true ∧ counting = if midChunk.pos = 0 then block midChunk.S else midChunk.KS) ∧
    (let s := engineOf (zeroKeyState 7) true 15 counting
     s.keyed = true ∧ counting = if s.pos = 0 then block s.S else s.KS) :=
  ⟨rfl, ⟨rfl, (if_pos rfl).symm⟩, ⟨rfl, by rw [if_neg (by decide)]; rfl⟩, ⟨rfl, by rw [if_neg (by decide)]; rfl⟩⟩

theorem witness_CounterWrapsSilently :
    let s := engineOf (zeroKeyState 0xFFFFFFFF) true 15 counting
    let s' := engineOf (zeroKeyState 0xFFFFFFFF) true 0 counting
    (s.keyed = true ∧ s.S[12] = 0xFFFFFFFF#32 ∧ (s.pos = 15 ∨ false = true)) ∧
    (s'.keyed = true ∧ s'.S[12] = 0xFFFFFFFF#32 ∧ (s'.pos = 15 ∨ true = true)) := by decide

/-- Keyed in the middle of a chunk, unkeyed, and a message of 17 Words with an RDCTR after it. -/
theorem witness_RdctrReturnsTheCounter : midChunk.keyed = true ∧ unkeyedEngine.keyed = false ∧
    (let ws : List Word := List.replicate 17 5
     let s := { freshEngine with inputs := present (msg ws ++ [Instr.rdctr]) }
     s.keyed = true ∧ s.pos = 0 ∧ ws ≠ [] ∧ s.inputs = present (msg ws ++ [Instr.rdctr])) :=
  ⟨rfl, rfl, rfl, rfl, by decide, rfl⟩

/-- INIT, PROC in the middle of a chunk, and an operation that is neither, each with a next state. -/
theorem witness_OnlyInitAndProcWriteState :
    exec (.init 1 2) midChunk = .next (resultOf (.init 1 2) midChunk) ∧
    (exec (.proc 5 false) midChunk = .next (resultOf (.proc 5 false) midChunk) ∧
      ¬(midChunk.pos = 15 ∨ false = true) ∧ midChunk.pos ≠ 0 ∧ (13 : Fin 16) ≠ 12) ∧
    (exec .rdctr midChunk = .next (resultOf .rdctr midChunk) ∧ ¬(∃ key nonce, Instr.rdctr = .init key nonce) ∧
      ¬(∃ data last, Instr.rdctr = .proc data last)) :=
  ⟨rfl, ⟨rfl, by decide, by decide, by decide⟩, ⟨rfl, by simp, by simp⟩⟩

/-- Two engines that differ in key, nonce and constants and agree on what a response may carry. -/
theorem witness_ResponsesReadBackNoKey :
    let s := midChunk
    let s' := engineOf (counting.set 12 7) true 3 (zeroKeyState 0 |>.set 3 3)
    s.keyed = s'.keyed ∧ s.S[12] = s'.S[12] ∧ s.outs = s'.outs ∧ s.pos = s'.pos ∧ s.pos ≠ 0 ∧ s.KS[s.pos] = s'.KS[s.pos] ∧
      s.S ≠ s'.S ∧ s.KS ≠ s'.KS := by decide

theorem witness_ResponsesReadBackNoKey_next (i : Instr) (s : State) : ∃ t, exec i s = .next t := ⟨_, exec_eq_next i s⟩

/-- A command, its next state and its one response. -/
theorem witness_ErrorsAreExactlyTheseTwo :
    exec (decode (.engine ⟨0b11#2, 0, 0, 0, 0⟩)) midChunk = .next (resultOf .rsvd midChunk) ∧
    (resultOf .rsvd midChunk).outs = midChunk.outs ++ [.rsp ⟨.errIllegalCmd, 0⟩] := ⟨rfl, rfl⟩

theorem witness_ErrorsChangeNoState :
    exec .rdctr unkeyedEngine = .next (resultOf .rdctr unkeyedEngine) ∧
    (resultOf .rdctr unkeyedEngine).outs = unkeyedEngine.outs ++ [.rsp ⟨.errNotInit, 0⟩] ∧ Status.errNotInit ≠ .ok :=
  ⟨rfl, rfl, by decide⟩

theorem witness_NotInitUntilFirstInit : State.reset.keyed = false := rfl

/-- A run of one step: an operation, with its next state. -/
theorem witness_EarlierOutputsAreNeverRead :
    Host.Core.run core 1 { midChunk with inputs := present [.rdctr] } =
      .next (setInputs [] (resultsOf [.rdctr] { midChunk with inputs := present [.rdctr] })) :=
  run_present [.rdctr] [] _ rfl

/-- An event that stays in the Session, taken by one step of a run. -/
theorem witness_OnlyTheCounterMovesInASession :
    Safety.staysInSession (.present (encode (.proc 5 true))) = true ∧
    Host.Core.run core 1 { midChunk with inputs := present [.proc 5 true] } =
      .next (setInputs [] (resultsOf [.proc 5 true] { midChunk with inputs := present [.proc 5 true] })) ∧
    step { midChunk with inputs := present [.proc 5 true] } =
      .next (resultOf (.proc 5 true) (setInputs [] { midChunk with inputs := present [.proc 5 true] })) :=
  ⟨by decide, run_present [.proc 5 true] [] _ rfl, rfl⟩

/-- A keyed engine that meets the invariant, and the reset state as one that steps. -/
theorem witness_EveryStepKeepsTheInvariant : Safety.Inv freshEngine ∧ step freshEngine = .next freshEngine :=
  ⟨⟨fun h => absurd rfl h, fun h => Bool.noConfusion h, fun _ => by decide⟩, rfl⟩

/-- A keyed engine in the middle of a chunk that meets the invariant. -/
theorem witness_KeystreamBufferIsInvisible :
    let s := engineOf (zeroKeyState 7) true 3 (block (zeroKeyState 7))
    Safety.Inv s ∧ s.keyed = true ∧ s.pos ≠ 0 :=
  ⟨⟨fun _ => rfl, fun h => Bool.noConfusion h, fun _ => by decide⟩, rfl, by decide⟩

/-- Two unkeyed engines with different contents and the same events, one step on. -/
theorem witness_NoOutputDependsOnUnspecifiedContents :
    let s := { unkeyedEngine with inputs := present [.init 1 2] }
    let s' := { engineOf (zeroKeyState 1) false 0 (zeroKeyState 2) with inputs := present [.init 1 2] }
    s.keyed = false ∧ s'.keyed = false ∧ s.pos = 0 ∧ s'.pos = 0 ∧ s.inputs = s'.inputs ∧ s.outs = s'.outs ∧ s.S ≠ s'.S ∧
      Host.Core.run core 1 s = .next (setInputs [] (resultsOf [.init 1 2] s)) ∧
      Host.Core.run core 1 s' = .next (setInputs [] (resultsOf [.init 1 2] s')) :=
  ⟨rfl, rfl, rfl, rfl, rfl, rfl, by decide, run_present [.init 1 2] [] _ rfl, run_present [.init 1 2] [] _ rfl⟩

/-- The first Word of the first and of the second chunk of a message of 17. -/
theorem witness_ProcessHasAClosedForm :
    (List.replicate 17 (5 : Word))[0]? = some 5 ∧ (List.replicate 17 (5 : Word))[16]? = some 5 := by decide

theorem witness_MessageBoundaries : (List.replicate 16 (5 : Word)).length = 16 ∧ (List.replicate 17 (5 : Word)).length = 17 ∧
    1 ≤ [(5 : Word)].length ∧ [(5 : Word)].length ≤ 16 := by decide

theorem witness_PseudoOperationsAreMessages : [(5 : Word), 6][0]? = some 5 ∧ [(5 : Word), 6][1]? = some 6 ∧ 0 < 17 ∧ 16 < 17 := by
  decide

theorem witness_MessageRefinesProcess :
    let s := { freshEngine with inputs := present (msg [5, 6]) }
    s.keyed = true ∧ s.pos = 0 ∧ ([5, 6] : List Word) ≠ [] ∧ s.inputs = present (msg [5, 6]) :=
  ⟨rfl, rfl, by decide, rfl⟩

theorem witness_InterleavedQueriesDoNotDisturb :
    let is : List Instr := [.rdctr, .proc 5 false, .rsvd, .proc 6 true, .rdctr]
    let s := { freshEngine with inputs := present is }
    s.keyed = true ∧ s.pos = 0 ∧ ([5, 6] : List Word) ≠ [] ∧
      is.filter (fun i => i != .rdctr && i != .rsvd) = msg [5, 6] ∧ s.inputs = present is :=
  ⟨rfl, rfl, by decide, by decide, rfl⟩

/-- P4's first and third messages, cut to one Word: 00000001 is answered ade0b877. -/
theorem witness_DecryptionReturnsThePlaintext :
    let s := { State.reset with inputs := present (.init 0 0 :: encrypt [0x00000001]) }
    let t := setInputs [] (resultsOf (.init 0 0 :: encrypt [0x00000001]) s)
    let s' := { midChunk with inputs := present (.init 0 0 :: decrypt [0xade0b877]) }
    ([0x00000001] : List Word) ≠ [] ∧ s.inputs = present (.init 0 0 :: encrypt [0x00000001]) ∧
      Host.Core.run core ([0x00000001#32].length + 1) s = .next t ∧
      t.outs = s.outs ++ .rsp ⟨.ok, 0⟩ :: [0xade0b877#32].map (fun y => .rsp ⟨.ok, y⟩) ∧
      s'.inputs = present (.init 0 0 :: decrypt [0xade0b877]) :=
  ⟨by decide, rfl, run_present (.init 0 0 :: encrypt [0x00000001]) [] _ rfl, by decide +kernel, rfl⟩

theorem witness_CounterContinuesAcrossMessages :
    let s := { freshEngine with inputs := present (msg [5] ++ msg [6, 7]) }
    s.keyed = true ∧ s.pos = 0 ∧ ([5] : List Word) ≠ [] ∧ ([6, 7] : List Word) ≠ [] ∧
      s.inputs = present (msg [5] ++ msg [6, 7]) := ⟨rfl, rfl, by decide, by decide, rfl⟩

theorem witness_ResetLeavesTheEngineUnkeyed : ({ midChunk with inputs := [.reset] } : State).inputs = .reset :: [] := rfl

/-- Two INITs that differ in the ignored fields, and two PROCs likewise. -/
theorem witness_IgnoredFieldsDoNotMatter :
    (let c : Command := ⟨0b00#2, 0, 0, 5, 6⟩; let c' : Command := ⟨0b00#2, 1, 0xFFFFFFFF, 5, 6⟩
     c ≠ c' ∧ c.op = c'.op ∧ (c.op = 0b00#2 → c.key = c'.key ∧ c.nonce = c'.nonce) ∧
       (c.op = 0b01#2 → c.data = c'.data ∧ c.last = c'.last)) ∧
    (let c : Command := ⟨0b01#2, 1, 7, 0, 0⟩; let c' : Command := ⟨0b01#2, 1, 7, 5, 6⟩
     c ≠ c' ∧ c.op = c'.op ∧ (c.op = 0b00#2 → c.key = c'.key ∧ c.nonce = c'.nonce) ∧
       (c.op = 0b01#2 → c.data = c'.data ∧ c.last = c'.last)) := by decide

theorem witness_StepRunsTheDecodedOperation :
    ({ midChunk with inputs := [.present .wiredOne] } : State).inputs = .present .wiredOne :: [] ∧
    (decode .wiredOne).wf = true ∧ midChunk.inputs = [] ∧ decodeTableWord 8 2 = some .rdctr := ⟨rfl, rfl, rfl, by decide⟩

theorem witness_DecodeAndEncodeAgree : (∀ c, Ports.wiredOne ≠ .engine c) ∧ (Command.mk 0b01#2 1 0 0 0).op = 0b01#2 := by
  simp

theorem witness_DecodingFollowsTheOpcodeTable : Ports.wordAddXor 1#1 2 3 = .wordAddXor 1#1 2 3 := rfl

/-- Pins with and without reset and command. -/
def pinsOf (rst valid : Bool) : Pins := { rst := rst, cmdValid := valid, cmd := ⟨0b10#2, 0, 0, 0, 0⟩ }

theorem witness_ResetEdgeAbandonsTheCommand : (pinsOf true true).rst = true ∧ (pinsOf false false).rst = false := ⟨rfl, rfl⟩

/-- An idle engine, a command, and fewer edges than its latency, then as many. -/
theorem witness_ResponseComesAfterItsLatency :
    let c : ClockState := { st := midChunk, flight := none }
    let lat : Config.Latencies := ⟨9, 9, 9, 1, 9⟩
    c.flight = none ∧ (pinsOf false true).rst = false ∧ (pinsOf false true).cmdValid = true ∧
      (∀ p ∈ [pinsOf false true], p.rst = false) ∧
      ([] : List Pins).length < commandLatency lat (pinsOf false true).cmd c.st ∧
      [pinsOf false true].length = commandLatency lat (pinsOf false true).cmd c.st :=
  ⟨rfl, rfl, rfl, by decide, by decide, by decide⟩

theorem witness_ClockedRunIsTheCommandSequence :
    let c : ClockState := { st := midChunk, flight := none }
    c.flight = none ∧ c.st.inputs = [] ∧ (∀ p ∈ [pinsOf false false], p.rst = false) ∧
      clockRun ⟨1, 1, 1, 1, 1⟩ [pinsOf false false] c = .next c := ⟨rfl, rfl, by decide, rfl⟩

theorem witness_IdleEngineIsReady :
    (pinsOf false false).rst = false ∧ (ClockState.reset.flight = none ∧ (pinsOf false false).cmdValid = false) ∧
    ({ st := midChunk, flight := some { pending := [], left := 0 } } : ClockState).flight ≠ none :=
  ⟨rfl, ⟨rfl, rfl⟩, by decide⟩

end Sys2Proof.Machine
end

