-- ==== Sys2Proof/Proofs/ClockedRun.lean ====
section
/-! PROOF. The clocked engine against the transaction level (R9, R47, R70, R190): one clock edge without reset either
only lets time pass, or is one step of the transaction level. -/

namespace Sys2Proof.Machine

/-! ### What the transaction level sees of a clocked state -/

theorem settled_of_idle {c : ClockState} (hf : c.flight = none) : settled c = c.st := by
  simp only [settled, hf]

theorem settled_of_flight {c : ClockState} {f : Flight} (hf : c.flight = some f) :
    settled c = { c.st with outs := c.st.outs ++ f.pending } := by
  simp only [settled, hf]

@[simp] theorem settled_inputs (c : ClockState) : (settled c).inputs = c.st.inputs := by
  unfold settled; split <;> rfl

/-- Waiting for a response, and giving it, changes nothing the transaction level sees. -/
theorem settled_waitForResponse {c : ClockState} {f : Flight} (hf : c.flight = some f) :
    settled (waitForResponse f c.st) = settled c := by
  rw [settled_of_flight hf]
  unfold waitForResponse
  split <;> rfl

@[simp] theorem waitForResponse_inputs (f : Flight) (s : State) : (waitForResponse f s).st.inputs = s.inputs := by
  unfold waitForResponse; split <;> rfl

/-- With its response counted as given, an accepted command has done all that its operation does (log entry 13). -/
theorem settled_acceptedState (lat : Config.Latencies) (c : Command) (s : State) :
    settled (acceptedState lat c s) = resultOf (decodeCommand c) s := by
  rw [settled_of_flight (f := ⟨[outputOf (decodeCommand c) s], commandLatency lat c s⟩) rfl]
  simp only [acceptedState, ← resultOf_outs]

@[simp] theorem acceptedState_inputs (lat : Config.Latencies) (c : Command) (s : State) :
    (acceptedState lat c s).st.inputs = s.inputs :=
  resultOf_inputs (decodeCommand c) s

/-! ### The commands a run accepts -/

theorem cmdReady_of_idle {p : Pins} {c : ClockState} (h : p.rst = false) (hf : c.flight = none) :
    cmdReady p c = true := by simp [cmdReady, h, hf]

theorem cmdReady_of_flight {p : Pins} {c : ClockState} {f : Flight} (hf : c.flight = some f) :
    cmdReady p c = false := by simp [cmdReady, hf]

theorem acceptedEvents_cons_accept {p : Pins} {c c' : ClockState} {lat : Config.Latencies} (ps : List Pins)
    (h : clockEdge lat p c = .next c') (ha : (cmdReady p c && p.cmdValid) = true) :
    acceptedEvents lat (p :: ps) c = .present (.engine p.cmd) :: acceptedEvents lat ps c' := by
  simp [acceptedEvents, h, ha]

theorem acceptedEvents_cons_pass {p : Pins} {c c' : ClockState} {lat : Config.Latencies} (ps : List Pins)
    (h : clockEdge lat p c = .next c') (ha : (cmdReady p c && p.cmdValid) = false) :
    acceptedEvents lat (p :: ps) c = acceptedEvents lat ps c' := by
  simp [acceptedEvents, h, ha]

/-! ### One edge, then a run of edges -/

/-- What an edge without reset leaves: the transaction level has gone one step through the command the edge accepts, or
has stood still when it accepts none. -/
def EdgeIsStep (lat : Config.Latencies) (p : Pins) (c c' : ClockState) : Prop :=
  ((∀ ps, acceptedEvents lat (p :: ps) c = .present (.engine p.cmd) :: acceptedEvents lat ps c') ∧
      settled c' = resultOf (decode (.engine p.cmd)) (settled c)) ∨
    ((∀ ps, acceptedEvents lat (p :: ps) c = acceptedEvents lat ps c') ∧ settled c' = settled c)

/-- Every edge without reset has a next state, takes nothing from the host's events, and is a step or a pause of the
transaction level. -/
theorem clockEdge_isStep (lat : Config.Latencies) {p : Pins} (c : ClockState) (h : p.rst = false) :
    ∃ c', clockEdge lat p c = .next c' ∧ c'.st.inputs = c.st.inputs ∧ EdgeIsStep lat p c c' := by
  rcases hf : c.flight with _ | f
  · have hr := cmdReady_of_idle h hf
    rcases hv : p.cmdValid with _ | _
    · have he := clockEdge_idle lat h hf hv
      exact ⟨c, he, rfl, .inr ⟨fun ps => acceptedEvents_cons_pass ps he (by rw [hr, hv]; rfl), rfl⟩⟩
    · have he := clockEdge_accept lat h hf hv
      refine ⟨_, he, acceptedState_inputs .., .inl ⟨fun ps => acceptedEvents_cons_accept ps he (by rw [hr, hv]; rfl), ?_⟩⟩
      rw [settled_acceptedState, settled_of_idle hf]
      rfl
  · have he := clockEdge_wait lat h hf
    exact ⟨_, he, waitForResponse_inputs .., .inr ⟨fun ps => acceptedEvents_cons_pass ps he
      (by rw [cmdReady_of_flight hf]; rfl), settled_waitForResponse hf⟩⟩

/-- Presenting what the ports carry is one step, whatever events wait behind it. -/
theorem step_present (q : Ports) (es : List Event) (s : State) :
    step (setInputs (.present q :: es) s) = .next (setInputs es (resultOf (decode q) s)) :=
  (exec_eq_next (decode q) (setInputs es s)).trans (congrArg _ (resultOf_setInputs (decode q) es s))

/-- The refinement from any clocked state, with a command in flight or none: from what the transaction level sees of
it, running the accepted commands leads to what the transaction level sees of the last state. -/
theorem run_acceptedEvents (lat : Config.Latencies) (ps : List Pins) {c c' : ClockState} (hi : c.st.inputs = [])
    (h : ∀ p ∈ ps, p.rst = false) (hr : clockRun lat ps c = .next c') :
    Host.Core.run core (acceptedEvents lat ps c).length (setInputs (acceptedEvents lat ps c) (settled c)) =
      .next (settled c') := by
  induction ps generalizing c with
  | nil =>
    obtain rfl : c = c' := Host.Outcome.next.inj hr
    have hs : setInputs [] (settled c) = settled c := by rw [← hi, ← settled_inputs]; rfl
    exact congrArg _ hs
  | cons p ps ih =>
    obtain ⟨hp, hps⟩ := List.forall_mem_cons.mp h
    obtain ⟨d, he, hdi, hstep⟩ := clockEdge_isStep lat c hp
    have hd := ih (hdi.trans hi) hps ((clockRun_cons lat ps he).symm.trans hr)
    rcases hstep with ⟨hev, hset⟩ | ⟨hev, hset⟩
    · rw [hset] at hd
      rw [hev, List.length_cons, run_succ _ (step_present ..), hd]
    · rw [hev, ← hset, hd]

/-- Settles O53: the refinement from an idle state, whose settled state is itself. -/
theorem clockedRunIsTheCommandSequence : Obligations.ClockedRunIsTheCommandSequence := by
  intro lat ps c c' hf hi h hr
  have hrun := run_acceptedEvents lat ps hi h hr
  rw [settled_of_idle hf] at hrun
  exact hrun

end Sys2Proof.Machine
end

