-- ==== Sys2Proof/Proofs/EngineState.lean ====
section
/-! PROOF. The engine's state (10_state): what an operation can write (R34), the invariant every step keeps (R22, R28,
R29), what stays in a Session (R26), and what no response can show (R34, R35). -/

namespace Sys2Proof.Machine

/-! ### What an operation can do to the engine -/

/-- No INIT, and no PROC on a keyed engine: the operations that write nothing of the engine (R34, R165). -/
def WritesNothing (i : Instr) (s : State) : Prop :=
  (∀ key nonce, i ≠ .init key nonce) ∧ ∀ data last, i = .proc data last → s.keyed = false

/-- An operation that writes nothing only gives its output. -/
theorem resultOf_of_writesNothing {i : Instr} {s : State} (h : WritesNothing i s) :
    resultOf i s = emit (outputOf i s) s := by
  obtain ⟨hinit, hproc⟩ := h
  cases i with
  | init key nonce => exact absurd rfl (hinit key nonce)
  | proc data last =>
    have hk := hproc data last rfl
    rw [resultOf_proc_unkeyed data last hk]
    simp only [outputOf, hk]
    rfl
  | rdctr =>
    rcases Bool.eq_false_or_eq_true s.keyed with hk | hk
    · rw [resultOf_rdctr_keyed hk]
      simp only [outputOf, hk]
      rfl
    · rw [resultOf_rdctr_unkeyed hk]
      simp only [outputOf, hk]
      rfl
  | _ => rfl

/-- Every operation is an INIT, a PROC on a keyed engine, or one that writes nothing (R34). -/
theorem operation_cases (i : Instr) (s : State) :
    (∃ key nonce, i = .init key nonce) ∨ (∃ data last, i = .proc data last ∧ s.keyed = true) ∨ WritesNothing i s := by
  cases i with
  | init key nonce => exact .inl ⟨key, nonce, rfl⟩
  | proc data last =>
    rcases Bool.eq_false_or_eq_true s.keyed with hk | hk
    · exact .inr (.inl ⟨data, last, rfl, hk⟩)
    · exact .inr (.inr ⟨nofun, fun _ _ _ => hk⟩)
  | _ => exact .inr (.inr ⟨nofun, nofun⟩)

theorem sameEngine_emit (o : Output) (s : State) : Safety.SameEngine s (emit o s) := ⟨rfl, rfl, rfl, rfl, rfl⟩

/-- A Word other than the counter is not written by a counter write (R26). -/
theorem getFin_set_counter (x : Words16) (v : Word) {j : Fin 16} (h : j ≠ 12) : (x.set 12 v)[j] = x[j] :=
  (getFin_set x 12 j v).trans (if_neg h.symm)

/-- PROC writes no Word of S but the counter (R26). -/
theorem procWord_S_other (data : Word) (last : Bool) (s : State) {j : Fin 16} (h : j ≠ 12) :
    (procWord data last s).S[j] = s.S[j] := by
  rw [procWord_S]
  split
  · exact getFin_set_counter s.S _ h
  · rfl

/-- Settles O23, by what the three kinds of operation do to each field. -/
theorem onlyInitAndProcWriteState : Obligations.OnlyInitAndProcWriteState := by
  intro i s t h
  rw [exec_eq_next] at h
  obtain rfl : resultOf i s = t := Host.Outcome.next.inj h
  refine ⟨resultOf_inputs i s, resultOf_resets i s, ?_⟩
  rcases operation_cases i s with ⟨key, nonce, rfl⟩ | ⟨data, last, rfl, hk⟩ | hw
  · exact ⟨fun _ => initEngine_KS key nonce s, nofun, fun hi => absurd ⟨key, nonce, rfl⟩ hi⟩
  · rw [resultOf_proc_keyed data last hk]
    refine ⟨nofun, ?_, fun _ hp => absurd ⟨data, last, rfl⟩ hp⟩
    rintro _ _ ⟨⟩
    exact ⟨procWord_keyed data last s, fun j hj => procWord_S_other data last s hj,
      fun he => by rw [procWord_S, if_neg he], fun hp => by rw [procWord_KS, if_neg hp]⟩
  · rw [resultOf_of_writesNothing hw]
    exact ⟨fun _ => rfl, fun _ _ _ => ⟨rfl, fun _ _ => rfl, fun _ => rfl, fun _ => rfl⟩,
      fun _ _ => sameEngine_emit (outputOf i s) s⟩

/-! ### The invariant -/

/-- With a chunk open or not, the block a PROC takes its Word from is `BLOCK(S)` (R29). -/
theorem keystream_eq_block {s : State} (h : Safety.KeystreamOfOpenChunk s) :
    (if s.pos = 0 then block s.S else s.KS) = block s.S := by
  split
  · rfl
  · next hp => exact h hp

/-- The invariant speaks of the engine alone, not of the host's lines. -/
theorem inv_of_sameEngine {s t : State} (he : Safety.SameEngine s t) (h : Safety.Inv s) : Safety.Inv t := by
  obtain ⟨hS, hkeyed, hpos, hKS, -⟩ := he
  obtain ⟨hopen, hkey, hconst⟩ := h
  refine ⟨?_, ?_, ?_⟩
  · rw [Safety.KeystreamOfOpenChunk, ← hS, ← hpos, ← hKS]; exact hopen
  · rw [Safety.OpenOnlyWhenKeyed, ← hkeyed, ← hpos]; exact hkey
  · rw [Safety.ConstantsInPlace, ← hkeyed, ← hS]; exact hconst

/-- An unkeyed engine with no chunk open meets the invariant, whatever S and KS hold. -/
theorem inv_of_unkeyed {s : State} (hk : s.keyed = false) (hp : s.pos = 0) : Safety.Inv s where
  keystream := fun h => absurd hp h
  openKeyed := fun _ => hp
  constants := fun h => absurd (hk.symm.trans h) Bool.false_ne_true

/-- The constants an INIT writes are the numerals of R22. -/
theorem constructedState_constants (key : BitVec 256) (nonce : BitVec 96) :
    (constructedState key nonce)[0] = 0x61707865#32 ∧ (constructedState key nonce)[1] = 0x3320646e#32 ∧
    (constructedState key nonce)[2] = 0x79622d32#32 ∧ (constructedState key nonce)[3] = 0x6b206574#32 :=
  ⟨rfl, rfl, rfl, rfl⟩

theorem inv_initEngine (key : BitVec 256) (nonce : BitVec 96) (s : State) : Safety.Inv (initEngine key nonce s) where
  keystream := fun h => absurd rfl h
  openKeyed := nofun
  constants := fun _ => constructedState_constants key nonce

theorem inv_procWord (data : Word) (last : Bool) {s : State} (h : Safety.Inv s) (hk : s.keyed = true) :
    Safety.Inv (procWord data last s) where
  keystream := fun hp => by
    rw [procWord_pos] at hp
    have he : ¬(s.pos = 15 ∨ last = true) := fun he => hp (nextPos_of_ends he)
    rw [procWord_KS, keystream_eq_block h.keystream, procWord_S, if_neg he]
  openKeyed := fun hf => by simp [hk] at hf
  constants := fun _ => by
    have hS (j : Fin 16) (hj : j ≠ 12) := procWord_S_other data last s hj
    obtain ⟨h0, h1, h2, h3⟩ := h.constants hk
    exact ⟨(hS 0 (by decide)).trans h0, (hS 1 (by decide)).trans h1, (hS 2 (by decide)).trans h2,
      (hS 3 (by decide)).trans h3⟩

theorem inv_resultOf (i : Instr) {s : State} (h : Safety.Inv s) : Safety.Inv (resultOf i s) := by
  rcases operation_cases i s with ⟨key, nonce, rfl⟩ | ⟨data, last, rfl, hk⟩ | hw
  · exact inv_initEngine key nonce s
  · rw [resultOf_proc_keyed data last hk]
    exact inv_procWord data last h hk
  · rw [resultOf_of_writesNothing hw]
    exact inv_of_sameEngine (sameEngine_emit _ s) h

theorem sameEngine_setInputs (es : List Event) (s : State) : Safety.SameEngine s (setInputs es s) :=
  ⟨rfl, rfl, rfl, rfl, rfl⟩

/-- Settles O33: idling keeps the state, an operation keeps the invariant, and a reset leaves an unkeyed engine. -/
theorem everyStepKeepsTheInvariant : Obligations.EveryStepKeepsTheInvariant := by
  intro s t h hstep
  rcases step_cases hstep with ⟨-, rfl⟩ | ⟨p, rest, -, rfl⟩ | ⟨e, rest, -, -, rfl⟩
  · exact h
  · exact inv_resultOf (decode p) (inv_of_sameEngine (sameEngine_setInputs rest s) h)
  · exact inv_of_unkeyed rfl rfl

/-- Settles O32: the machine begins unkeyed, with no chunk open. -/
theorem invariantHoldsAtReset : Obligations.InvariantHoldsAtReset := inv_of_unkeyed rfl rfl

theorem outputOf_proc_keyed {s : State} (data : Word) (last : Bool) (hk : s.keyed = true) :
    outputOf (.proc data last) s = .rsp ⟨.ok, data ^^^ (if s.pos = 0 then block s.S else s.KS)[s.pos]⟩ := by
  simp only [outputOf, hk, if_true]

/-- Settles O34: in a chunk KS is `BLOCK(S)`, and at its start PROC computes it. -/
theorem keystreamBufferIsInvisible : Obligations.KeystreamBufferIsInvisible := by
  intro data last s h hk
  refine ⟨_, exec_eq_next (.proc data last) s, ?_⟩
  rw [resultOf_outs, outputOf_proc_keyed data last hk, keystream_eq_block h.keystream]

/-! ### The constants and the counter -/

/-- The string of R22 as character codes (log entry 10). -/
theorem constants_string_codes : "expand 32-byte k".toList.map Char.toNat =
    [0x65, 0x78, 0x70, 0x61, 0x6e, 0x64, 0x20, 0x33, 0x32, 0x2d, 0x62, 0x79, 0x74, 0x65, 0x20, 0x6b] := by
  decide

/-- The Words INIT puts first are the four constants. -/
theorem constructedState_get_const (key : BitVec 256) (nonce : BitVec 96) (i : Fin 4) :
    (constructedState key nonce)[i.val] = #v[constWord0, constWord1, constWord2, constWord3][i.val] := by
  match i with
  | 0 | 1 | 2 | 3 => rfl

/-- Settles O17: the four Words are those of R22, whose bytes are compared with the string's codes one by one. -/
theorem constantsSpellTheString : Obligations.ConstantsSpellTheString := by
  intro key nonce s t h
  obtain rfl : initEngine key nonce s = t := Host.Outcome.next.inj h
  rw [initEngine_S, constants_string_codes]
  refine ⟨?_, constructedState_constants key nonce⟩
  simp only [constructedState_get_const]
  decide

/-- Settles O20: the sum wraps to 0, and the next PROC finds pos 0 and opens a chunk over the wrapped state. -/
theorem counterWrapsSilently : Obligations.CounterWrapsSilently := by
  intro data data' last s hk hc he
  have hS : (procWord data last s).S = s.S.set 12 0x00000000#32 := by
    rw [procWord_S, if_pos he, hc]
    rfl
  have hp : (procWord data last s).pos = 0 := (procWord_pos data last s).trans (nextPos_of_ends he)
  have hk' : (procWord data last s).keyed = true := (procWord_keyed data last s).trans hk
  have ht : exec (.proc data last) s = .next (procWord data last s) := by
    rw [exec_eq_next, resultOf_proc_keyed data last hk]
  refine ⟨_, _, _, ht, procWord_outs data last s, hS, hk', hp, exec_eq_next _ _, ?_⟩
  rw [resultOf_outs, outputOf_proc_keyed data' false hk', if_pos hp]
  simp only [hS, hp]
  rfl

/-! ### One event -/

/-- What one event of the host does to the state it meets (R70, R180, R181). -/
def afterEvent (e : Event) (s : State) : State :=
  match e with
  | .present p => resultOf (decode p) s
  | .reset => resetEngine s
  | .resetInFlight _ => resetEngine s

theorem step_of_inputs_nil {s : State} (h : s.inputs = []) : step s = .next s := by simp only [step, h]

theorem step_of_inputs_cons {e : Event} {rest : List Event} {s : State} (h : s.inputs = e :: rest) :
    step s = .next (afterEvent e (setInputs rest s)) := by
  cases e with
  | present p => simp only [step, h, exec_eq_next, afterEvent]
  | _ => simp only [step, h, afterEvent]

/-- Acting on an event takes no other from the host's line (R47). -/
theorem afterEvent_inputs (e : Event) (s : State) : (afterEvent e s).inputs = s.inputs := by
  cases e with
  | present p => exact resultOf_inputs (decode p) s
  | _ => rfl

/-! ### What stays in a Session -/

/-- What is presented is an INIT, a PROC, or an operation that writes nothing (R66). -/
theorem decode_cases (p : Ports) (s : State) :
    (∃ c, p = .engine c ∧ c.op = 0b00#2) ∨
    (∃ c, p = .engine c ∧ c.op = 0b01#2 ∧ decode p = .proc c.data (c.last == 1#1)) ∨
    WritesNothing (decode p) s := by
  cases p with
  | engine c =>
    by_cases h0 : c.op = 0b00#2
    · exact .inl ⟨c, rfl, h0⟩
    by_cases h1 : c.op = 0b01#2
    · exact .inr (.inl ⟨c, rfl, h1, by simp [decode, decodeCommand, h1]⟩)
    · refine .inr (.inr ?_)
      simp only [decode, decodeCommand, if_neg h0, if_neg h1]
      split <;> exact ⟨nofun, nofun⟩
  | wordAddXor op a b =>
    refine .inr (.inr ?_)
    simp only [decode]
    split <;> exact ⟨nofun, nofun⟩
  | _ => exact .inr (.inr ⟨nofun, nofun⟩)

/-- A PROC on a keyed engine that ends a chunk is the next event: what moves the counter (R26, R133). -/
def ChunkEndNext (s : State) (e : Event) : Prop :=
  s.keyed = true ∧ ∃ c, e = .present (.engine c) ∧ c.op = 0b01#2 ∧ (s.pos = 15 ∨ c.last = 1#1)

/-- A step within a Session leaves S alone, or moves the counter by one at a chunk's end (R26). -/
theorem step_S_of_staysInSession {e : Event} {rest : List Event} {s t : State} (he : Safety.staysInSession e = true)
    (hi : s.inputs = e :: rest) (h : step s = .next t) :
    t.S = s.S ∨ (t.S = s.S.set 12 (s.S[12] + 1) ∧ ChunkEndNext s e) := by
  rw [step_of_inputs_cons hi] at h
  obtain rfl := Host.Outcome.next.inj h
  cases e with
  | present p =>
    rw [afterEvent, resultOf_setInputs, setInputs_S]
    rcases decode_cases p s with ⟨c, rfl, hop⟩ | ⟨c, rfl, hop, hd⟩ | hw
    · simp [Safety.staysInSession, hop] at he
    · rw [hd]
      rcases Bool.eq_false_or_eq_true s.keyed with hk | hk
      · rw [resultOf_proc_keyed _ _ hk, procWord_S]
        split
        · next hends => exact .inr ⟨rfl, hk, c, rfl, hop, hends.imp_right (by simp)⟩
        · exact .inl rfl
      · exact .inl (by rw [resultOf_proc_unkeyed _ _ hk, raiseError_S])
    · exact .inl (by rw [resultOf_of_writesNothing hw, emit_S])
  | reset => cases he
  | resetInFlight c => cases he

theorem run_S_other (n : Nat) {s t : State} (hs : ∀ e ∈ s.inputs.take n, Safety.staysInSession e = true)
    (hr : Host.Core.run core n s = .next t) {j : Fin 16} (hj : j ≠ 12) : t.S[j] = s.S[j] := by
  induction n generalizing s with
  | zero =>
    obtain rfl : s = t := Host.Outcome.next.inj hr
    rfl
  | succ n ih =>
    obtain ⟨u, hu, hrun⟩ := run_succ_inv hr
    rcases hi : s.inputs with _ | ⟨e, rest⟩
    · obtain rfl : s = u := Host.Outcome.next.inj ((step_of_inputs_nil hi).symm.trans hu)
      exact ih (by simp [hi]) hrun
    · rw [hi, List.take_succ_cons, List.forall_mem_cons] at hs
      obtain ⟨he, hrest⟩ := hs
      have hu' : u.inputs = rest := by
        obtain rfl := Host.Outcome.next.inj ((step_of_inputs_cons hi).symm.trans hu)
        exact afterEvent_inputs e _
      have hstep : u.S[j] = s.S[j] := by
        rcases step_S_of_staysInSession he hi hu with hS | ⟨hS, -⟩ <;> rw [hS]
        exact getFin_set_counter s.S _ hj
      exact (ih (hu'.symm ▸ hrest) hrun).trans hstep

/-- Settles O31: the first part by induction over the steps, both from what one step within a Session does to S. -/
theorem onlyTheCounterMovesInASession : Obligations.OnlyTheCounterMovesInASession := by
  refine ⟨fun n s t hs hr j hj => run_S_other n hs hr hj, fun e rest s t he hi h => ?_⟩
  rcases step_S_of_staysInSession he hi h with hS | ⟨hS, hend⟩
  · exact .inl (by rw [hS])
  · exact .inr ⟨by rw [hS]; exact Vector.getElem_set_self .., hend⟩

/-! ### What no response can show -/

/-- PROC's answer depends on keyed and, once keyed, on the one keystream Word at pos (R133). -/
theorem outputOf_proc_congr {s s' : State} (data : Word) (last : Bool) (hk : s.keyed = s'.keyed)
    (hw : s.keyed = true → (if s.pos = 0 then block s.S else s.KS)[s.pos] =
      (if s'.pos = 0 then block s'.S else s'.KS)[s'.pos]) :
    outputOf (.proc data last) s = outputOf (.proc data last) s' := by
  rcases Bool.eq_false_or_eq_true s.keyed with h | h
  · rw [outputOf_proc_keyed data last h, outputOf_proc_keyed data last (hk ▸ h), hw h]
  · simp only [outputOf, ← hk, h]; rfl

/-- RDCTR's answer depends on keyed and, once keyed, on the counter (R134). -/
theorem outputOf_rdctr_congr {s s' : State} (hk : s.keyed = s'.keyed) (hc : s.keyed = true → s.S[12] = s'.S[12]) :
    outputOf .rdctr s = outputOf .rdctr s' := by
  rcases Bool.eq_false_or_eq_true s.keyed with h | h
  · simp only [outputOf, ← hk, hc h]
  · simp only [outputOf, ← hk, h]; rfl

/-- Two states with the same outputs so far have the same outputs after an operation that answers both alike. -/
theorem outs_eq_of_outputOf_eq {i : Instr} {s s' t t' : State} (ho : s.outs = s'.outs)
    (h : outputOf i s = outputOf i s') (ht : exec i s = .next t) (ht' : exec i s' = .next t') : t.outs = t'.outs := by
  obtain rfl : resultOf i s = t := Host.Outcome.next.inj ((exec_eq_next i s).symm.trans ht)
  obtain rfl : resultOf i s' = t' := Host.Outcome.next.inj ((exec_eq_next i s').symm.trans ht')
  rw [resultOf_outs, resultOf_outs, ho, h]

/-- Settles O24: with a chunk open the keystream Word PROC uses is `KS[pos]`. -/
theorem responsesReadBackNoKey : Obligations.ResponsesReadBackNoKey := by
  refine ⟨fun s s' t t' hk hc ho => outs_eq_of_outputOf_eq ho (outputOf_rdctr_congr hk fun _ => hc),
    fun data last s s' t t' hk hp hopen hw ho =>
      outs_eq_of_outputOf_eq ho (outputOf_proc_congr data last hk fun _ => ?_)⟩
  rw [if_neg hopen, if_neg (hp ▸ hopen)]
  simpa only [hp] using hw

/-- Two engines the host cannot tell apart: they agree on all but S while unkeyed and KS outside an open chunk, whose
contents are unspecified then (R29, R35), and the count that numbers those contents (log entry 5). -/
structure Indistinguishable (s s' : State) : Prop where
  keyed : s.keyed = s'.keyed
  pos : s.pos = s'.pos
  S : s.keyed = true → s.S = s'.S
  KS : s.pos ≠ 0 → s.KS = s'.KS
  inputs : s.inputs = s'.inputs
  outs : s.outs = s'.outs

namespace Indistinguishable

/-- The block PROC takes its Word from is the same in both. -/
theorem keystream {s s' : State} (h : Indistinguishable s s') (hk : s.keyed = true) :
    (if s.pos = 0 then block s.S else s.KS) = if s'.pos = 0 then block s'.S else s'.KS := by
  rw [← h.pos, ← h.S hk]
  split
  · rfl
  · next hp => exact h.KS hp

/-- Neither engine's answer shows which of the two it is. -/
theorem outputOf_eq {s s' : State} (h : Indistinguishable s s') (i : Instr) : outputOf i s = outputOf i s' := by
  cases i with
  | proc data last =>
    refine outputOf_proc_congr data last h.keyed fun hk => ?_
    rw [h.keystream hk]
    simp only [h.pos]
  | rdctr => exact outputOf_rdctr_congr h.keyed fun hk => by rw [h.S hk]
  | _ => rfl

theorem after_setInputs {s s' : State} (h : Indistinguishable s s') (es : List Event) :
    Indistinguishable (setInputs es s) (setInputs es s') := { h with inputs := rfl }

theorem after_emit {s s' : State} (h : Indistinguishable s s') (o : Output) :
    Indistinguishable (emit o s) (emit o s') := { h with outs := by simp only [emit_outs, h.outs] }

/-- An INIT makes S the same in both, and leaves no chunk open (R132). -/
theorem after_initEngine {s s' : State} (h : Indistinguishable s s') (key : BitVec 256) (nonce : BitVec 96) :
    Indistinguishable (initEngine key nonce s) (initEngine key nonce s') where
  keyed := rfl
  pos := rfl
  S := fun _ => rfl
  KS := fun hp => absurd rfl hp
  inputs := h.inputs
  outs := by simp only [initEngine_outs, h.outs]

/-- A PROC on keyed engines makes KS the same in both (R133). -/
theorem after_procWord {s s' : State} (h : Indistinguishable s s') (hk : s.keyed = true) (data : Word) (last : Bool) :
    Indistinguishable (procWord data last s) (procWord data last s') where
  keyed := by simp only [procWord_keyed, h.keyed]
  pos := by simp only [procWord_pos, h.pos]
  S := fun _ => by simp only [procWord_S, h.pos, h.S hk]
  KS := fun _ => by rw [procWord_KS, procWord_KS, h.keystream hk]
  inputs := by simp only [procWord_inputs, h.inputs]
  outs := by
    rw [← resultOf_proc_keyed data last hk, ← resultOf_proc_keyed data last (h.keyed ▸ hk), resultOf_outs,
      resultOf_outs, h.outs, h.outputOf_eq]

theorem after_resetEngine {s s' : State} (h : Indistinguishable s s') :
    Indistinguishable (resetEngine s) (resetEngine s') where
  keyed := rfl
  pos := rfl
  S := nofun
  KS := fun hp => absurd rfl hp
  inputs := h.inputs
  outs := h.outs

theorem after_resultOf {s s' : State} (h : Indistinguishable s s') (i : Instr) :
    Indistinguishable (resultOf i s) (resultOf i s') := by
  rcases operation_cases i s with ⟨key, nonce, rfl⟩ | ⟨data, last, rfl, hk⟩ | hw
  · exact h.after_initEngine key nonce
  · rw [resultOf_proc_keyed data last hk, resultOf_proc_keyed data last (h.keyed ▸ hk)]
    exact h.after_procWord hk data last
  · have hw' : WritesNothing i s' := hw.imp_right fun hproc => h.keyed ▸ hproc
    rw [resultOf_of_writesNothing hw, resultOf_of_writesNothing hw', h.outputOf_eq]
    exact h.after_emit _

theorem after_event {s s' : State} (h : Indistinguishable s s') (e : Event) :
    Indistinguishable (afterEvent e s) (afterEvent e s') := by
  cases e with
  | present p => exact h.after_resultOf (decode p)
  | reset => exact h.after_resetEngine
  | resetInFlight c => exact h.after_resetEngine

theorem after_step {s s' t t' : State} (h : Indistinguishable s s') (ht : step s = .next t) (ht' : step s' = .next t') :
    Indistinguishable t t' := by
  rcases hi : s.inputs with _ | ⟨e, rest⟩
  · obtain rfl := Host.Outcome.next.inj ((step_of_inputs_nil hi).symm.trans ht)
    obtain rfl := Host.Outcome.next.inj ((step_of_inputs_nil (h.inputs ▸ hi)).symm.trans ht')
    exact h
  · obtain rfl := Host.Outcome.next.inj ((step_of_inputs_cons hi).symm.trans ht)
    obtain rfl := Host.Outcome.next.inj ((step_of_inputs_cons (h.inputs ▸ hi)).symm.trans ht')
    exact (h.after_setInputs rest).after_event e

theorem after_run (n : Nat) {s s' t t' : State} (h : Indistinguishable s s') (ht : Host.Core.run core n s = .next t)
    (ht' : Host.Core.run core n s' = .next t') : Indistinguishable t t' := by
  induction n generalizing s s' with
  | zero =>
    obtain rfl : s = t := Host.Outcome.next.inj ht
    obtain rfl : s' = t' := Host.Outcome.next.inj ht'
    exact h
  | succ n ih =>
    obtain ⟨u, hu, hrun⟩ := run_succ_inv ht
    obtain ⟨u', hu', hrun'⟩ := run_succ_inv ht'
    exact ih (h.after_step hu hu') hrun hrun'

end Indistinguishable

/-- Settles O35: the two engines cannot be told apart at the start, and no step makes a difference. -/
theorem noOutputDependsOnUnspecifiedContents : Obligations.NoOutputDependsOnUnspecifiedContents := by
  intro n s s' t t' hk hk' hp hp' hi ho ht ht'
  have h : Indistinguishable s s' :=
    { keyed := hk.trans hk'.symm
      pos := hp.trans hp'.symm
      S := fun h => absurd (hk.symm.trans h) Bool.false_ne_true
      KS := fun h => absurd hp h
      inputs := hi
      outs := ho }
  obtain ⟨hkeyed, hpos, hS, -, -, houts⟩ := h.after_run n ht ht'
  exact ⟨houts, hkeyed, hpos, hS⟩

end Sys2Proof.Machine
end

section
/-! PROOF. The engine's memory (20_memory): commands that leave it as they found it (R44), and what a step takes from the
host's line of events before it runs an operation (R47, R50, R171, R191). -/

namespace Sys2Proof.Machine

/-! ### Commands that leave the engine as it was -/

/-- An operation that writes nothing leaves the engine as it was (R34). -/
theorem sameEngine_resultOf_of_writesNothing {i : Instr} {s : State} (h : WritesNothing i s) :
    Safety.SameEngine s (resultOf i s) := by
  rw [resultOf_of_writesNothing h]
  exact sameEngine_emit (outputOf i s) s

theorem writesNothing_rdctr (s : State) : WritesNothing .rdctr s := ⟨nofun, nofun⟩

/-- INIT writes S, keyed and pos from its operands alone and KS not at all, so a second one finds them as it would
write them (R34, R132). -/
theorem sameEngine_initEngine_initEngine (key : BitVec 256) (nonce : BitVec 96) (s : State) :
    Safety.SameEngine (initEngine key nonce s) (initEngine key nonce (initEngine key nonce s)) := by
  refine ⟨?S, ?keyed, ?pos, ?KS, ?resets⟩
  case S => rw [initEngine_S, initEngine_S]
  case keyed => rw [initEngine_keyed, initEngine_keyed]
  case pos => rw [initEngine_pos, initEngine_pos]
  case KS => exact (initEngine_KS key nonce (initEngine key nonce s)).symm
  case resets => exact (initEngine_resets key nonce (initEngine key nonce s)).symm

/-- Settles O18: an INIT after the same INIT writes what is there, and RDCTR writes nothing. -/
theorem repeatedInitChangesNothing : Obligations.RepeatedInitChangesNothing := by
  refine ⟨fun key nonce s => ?_, fun s => ?_⟩
  · exact ⟨_, _, exec_eq_next _ s, exec_eq_next _ _, sameEngine_initEngine_initEngine key nonce s⟩
  · exact ⟨_, exec_eq_next _ s, sameEngine_resultOf_of_writesNothing (writesNothing_rdctr s)⟩

/-! ### What a step runs -/

/-- A step takes the presented operation from the line and executes it (R47). -/
theorem step_of_inputs_present {p : Ports} {rest : List Event} {s : State} (h : s.inputs = .present p :: rest) :
    step s = exec (decode p) (setInputs rest s) :=
  (step_of_inputs_cons h).trans (exec_eq_next (decode p) (setInputs rest s)).symm

/-- Taking the event just put first in the line gives the state from before. -/
theorem setInputs_pushInput (e : Event) (s : State) : setInputs s.inputs (pushInput e s) = s := rfl

theorem step_pushInput_present (p : Ports) (s : State) : step (pushInput (.present p) s) = exec (decode p) s := by
  rw [step_of_inputs_present (pushInput_inputs (.present p) s), setInputs_pushInput]

theorem decodeTableWord_eq_some {nbits w : Nat} {i : Instr} :
    decodeTableWord nbits w = some i ↔ ∃ p, tablePorts nbits w = some p ∧ decode p = i :=
  Option.map_eq_some_iff

/-- A number of the opcode table that names a module's ports presents them as the next event (log entries 1, 7). -/
theorem withFetchWord_of_tablePorts {nbits w : Nat} {p : Ports} (s : State) (h : tablePorts nbits w = some p) :
    s.withFetchWord nbits w = pushInput (.present p) s := by
  simp only [State.withFetchWord, h]

/-- Settles O47: a presented event is taken and its operation executed, no event is no change, and a number of the opcode
table is first presented on the ports it names. -/
theorem stepRunsTheDecodedOperation : Obligations.StepRunsTheDecodedOperation := by
  refine ⟨fun s p rest h _ => step_of_inputs_present h, fun s h => step_of_inputs_nil h, fun s nbits w i h => ?_⟩
  obtain ⟨p, hp, rfl⟩ := decodeTableWord_eq_some.mp h
  rw [withFetchWord_of_tablePorts s hp, step_pushInput_present]

end Sys2Proof.Machine
end

section
/-! PROOF. Encoding (30_encoding): decode and encode against each other and against the opcode table (R60 to R66, R69,
R71), the one response of a command (R68), the messages of the pseudo-operations (R73), and the handshake (R70). -/

namespace Sys2Proof.Machine

/-! ### The opcode map, one equation per code (R61, R66) -/

theorem opcode_cases (op : BitVec 2) : op = 0b00#2 ∨ op = 0b01#2 ∨ op = 0b10#2 ∨ op = 0b11#2 := by
  revert op; decide

theorem select_cases (op : BitVec 1) : op = 0#1 ∨ op = 1#1 := by
  revert op; decide

section Opcode
variable {c : Command}

theorem decode_engine_init (h : c.op = 0b00#2) : decode (.engine c) = .init c.key c.nonce := by
  simp [decode, decodeCommand, h]

theorem decode_engine_proc (h : c.op = 0b01#2) : decode (.engine c) = .proc c.data (c.last == 1#1) := by
  simp [decode, decodeCommand, h]

theorem decode_engine_rdctr (h : c.op = 0b10#2) : decode (.engine c) = .rdctr := by
  simp [decode, decodeCommand, h]

theorem decode_engine_rsvd (h : c.op = 0b11#2) : decode (.engine c) = .rsvd := by
  simp [decode, decodeCommand, h]

end Opcode

/-! ### Decode and encode (R60 to R66, R69, R71) -/

/-- No operand has an illegal value (R69). -/
theorem wf_eq_true (i : Instr) : i.wf = true := by cases i <;> rfl

/-- The operand `last` is its port's one bit. -/
theorem ofBool_beq_one (b : BitVec 1) : BitVec.ofBool (b == 1#1) = b := by
  revert b; decide

/-- Outside the engine no field is ignored: the encoder gives back the ports as they were. -/
theorem encode_decode_of_not_engine {p : Ports} (h : ∀ c, p ≠ .engine c) : encode (decode p) = p := by
  cases p with
  | wordAddXor op a b => rcases select_cases op with rfl | rfl <;> rfl
  | engine c => exact absurd rfl (h c)
  | _ => rfl

/-- The command with the fields its opcode ignores put to zero: what the encoder presents (R71). -/
def zeroIgnored (c : Command) : Command :=
  { op := c.op
    last := if c.op = 0b01#2 then c.last else 0
    data := if c.op = 0b01#2 then c.data else 0
    key := if c.op = 0b00#2 then c.key else 0
    nonce := if c.op = 0b00#2 then c.nonce else 0 }

theorem encode_decode_engine (c : Command) : encode (decode (.engine c)) = .engine (zeroIgnored c) := by
  rcases opcode_cases c.op with h | h | h | h
  · rw [decode_engine_init h]; simp [encode, zeroIgnored, h]
  · rw [decode_engine_proc h]; simp [encode, zeroIgnored, h, ofBool_beq_one]
  · rw [decode_engine_rdctr h]; simp [encode, zeroIgnored, h]
  · rw [decode_engine_rsvd h]; simp [encode, zeroIgnored, h]

/-- Settles O48: the encoder's choice is decoded back, and of what was presented it loses the ignored fields alone. -/
theorem decodeAndEncodeAgree : Obligations.DecodeAndEncodeAgree :=
  ⟨fun i => ⟨wf_eq_true i, decode_encode_of i⟩, fun _ h => encode_decode_of_not_engine h, encode_decode_engine⟩

/-- Commands that agree on the fields their opcode reads are the same once the ignored fields are zero. -/
theorem zeroIgnored_congr {c c' : Command} (hop : c.op = c'.op)
    (hinit : c.op = 0b00#2 → c.key = c'.key ∧ c.nonce = c'.nonce)
    (hproc : c.op = 0b01#2 → c.data = c'.data ∧ c.last = c'.last) : zeroIgnored c = zeroIgnored c' := by
  simp only [zeroIgnored, ← hop, Command.mk.injEq, true_and]
  refine ⟨?last, ?data, ?key, ?nonce⟩
  case last => exact ite_congr rfl (fun h => (hproc h).2) (fun _ => rfl)
  case data => exact ite_congr rfl (fun h => (hproc h).1) (fun _ => rfl)
  case key => exact ite_congr rfl (fun h => (hinit h).1) (fun _ => rfl)
  case nonce => exact ite_congr rfl (fun h => (hinit h).2) (fun _ => rfl)

/-- The decoder does not look at the ignored fields (R71). -/
theorem decode_zeroIgnored (c : Command) : decode (.engine (zeroIgnored c)) = decode (.engine c) := by
  rw [← encode_decode_engine, decode_encode_of]

/-- Settles O46: the two commands decode alike, since they differ in ignored fields alone, and a step sees of a command
what it decodes to. -/
theorem ignoredFieldsDoNotMatter : Obligations.IgnoredFieldsDoNotMatter := by
  intro c c' hop hinit hproc
  have hd : decode (.engine c) = decode (.engine c') := by
    rw [← decode_zeroIgnored c, zeroIgnored_congr hop hinit hproc, decode_zeroIgnored c']
  refine ⟨hd, fun s rest => ?_⟩
  calc step (setInputs (.present (.engine c) :: rest) s)
    _ = .next (setInputs rest (resultOf (decode (.engine c)) s)) := step_present _ rest s
    _ = .next (setInputs rest (resultOf (decode (.engine c')) s)) := by rw [hd]
    _ = step (setInputs (.present (.engine c') :: rest) s) := (step_present _ rest s).symm

/-! ### The opcode table (R60, R61, R66) -/

/-- Every operation's encoding carries its row's code. -/
theorem select_statement (i : Instr) : Laws.Select.Statement i := by
  cases i with
  | add a b => exact Laws.Select.add a b
  | xor a b => exact Laws.Select.xor a b
  | rotl a n => exact Laws.Select.rotl a n
  | zero => exact Laws.Select.zero
  | one => exact Laws.Select.one
  | qr a b c d => exact Laws.Select.qr a b c d
  | block x => exact Laws.Select.block x
  | init key nonce => exact Laws.Select.init key nonce
  | proc data last => exact Laws.Select.proc data last
  | rdctr => exact Laws.Select.rdctr
  | rsvd => exact Laws.Select.rsvd

/-- The select field is never ignored: the encoder presents the code that was decoded. -/
theorem selectCode_encode_decode (p : Ports) : selectCode (encode (decode p)) = selectCode p := by
  by_cases h : ∃ c, p = .engine c
  · obtain ⟨c, rfl⟩ := h
    rw [encode_decode_engine]
    rfl
  · rw [encode_decode_of_not_engine (not_exists.mp h)]

theorem selectCode_lt (p : Ports) : selectCode p < 2 ^ 2 := by
  cases p with
  | wordAddXor op a b => exact op.isLt.trans (by decide)
  | engine c => exact c.op.isLt
  | _ => exact Nat.two_pow_pos 2

/-- Settles O49: what is presented has the select code of the decoded operation's encoding, which is its row's. -/
theorem decodingFollowsTheOpcodeTable : Obligations.DecodingFollowsTheOpcodeTable := by
  refine fun p => ⟨?_, selectCode_lt p, fun op a b hp => ?_⟩
  · obtain ⟨hrow, -⟩ := select_statement (decode p)
    rwa [selectCode_encode_decode] at hrow
  · subst hp
    exact op.isLt

/-- Settles O50: each encoding falls under its code's equation, whatever its ignored fields hold. -/
theorem writtenEncodingsDecodeRight : Obligations.WrittenEncodingsDecodeRight :=
  ⟨rfl, rfl, rfl, decode_engine_init rfl, decode_engine_proc rfl, decode_engine_proc rfl, decode_engine_rdctr rfl,
    decode_engine_rsvd rfl⟩

/-! ### The one response of a command (R68, R161) -/

/-- The code 11 is no status's code (R68, U16). -/
theorem statusCode_ne (st : Status) : statusCode st ≠ 0b11#2 := by cases st <;> decide

/-- PROC and RDCTR on an engine without a key are answered ERR_NOT_INIT (R162). -/
theorem outputOf_engine_unkeyed {c : Command} {s : State} (hop : c.op = 0b01#2 ∨ c.op = 0b10#2)
    (hk : s.keyed = false) :
    outputOf (decode (.engine c)) s = .rsp ⟨.errNotInit, 0x00000000#32⟩ := by
  rcases hop with h | h
  · simp [decode_engine_proc h, outputOf, hk]
  · simp [decode_engine_rdctr h, outputOf, hk]

/-- PROC and RDCTR on a keyed engine are answered OK (R133, R134). -/
theorem outputOf_engine_keyed {c : Command} {s : State} (hop : c.op = 0b01#2 ∨ c.op = 0b10#2)
    (hk : s.keyed = true) :
    ∃ y, outputOf (decode (.engine c)) s = .rsp ⟨.ok, y⟩ := by
  rcases hop with h | h
  · exact ⟨_, by rw [decode_engine_proc h, outputOf_proc_keyed _ _ hk]⟩
  · exact ⟨_, by rw [decode_engine_rdctr h, outputOf, if_pos hk]⟩

/-- A command is INIT, one that needs a key, or the reserved code (R66, R162). -/
theorem command_cases (c : Command) : c.op = 0b00#2 ∨ (c.op = 0b01#2 ∨ c.op = 0b10#2) ∨ c.op = 0b11#2 := by
  simpa only [or_assoc] using opcode_cases c.op

/-- A command's output is a response, and an error's data is 0, as INIT's is (R68, R165). -/
theorem outputOf_engine (c : Command) (s : State) : ∃ r, outputOf (decode (.engine c)) s = .rsp r ∧
    (r.status ≠ .ok → r.data = 0x00000000#32) ∧ (c.op = 0b00#2 → r.data = 0x00000000#32) := by
  rcases command_cases c with h | h | h
  · rw [decode_engine_init h]
    exact ⟨_, rfl, fun _ => rfl, fun _ => rfl⟩
  · rcases Bool.eq_false_or_eq_true s.keyed with hk | hk
    · obtain ⟨y, hy⟩ := outputOf_engine_keyed h hk
      have h0 : c.op ≠ 0b00#2 := by rcases h with h | h <;> rw [h] <;> decide
      exact ⟨_, hy, fun hr => absurd rfl hr, fun hop => absurd hop h0⟩
    · exact ⟨_, outputOf_engine_unkeyed h hk, fun _ => rfl, fun _ => rfl⟩
  · rw [decode_engine_rsvd h]
    exact ⟨_, rfl, fun _ => rfl, fun _ => rfl⟩

/-- Settles O25: every operation has a next state and one output, which for a command is a response. -/
theorem everyCommandGetsOneResponse : Obligations.EveryCommandGetsOneResponse := by
  refine ⟨fun c s => ?_, rfl, rfl, rfl⟩
  obtain ⟨r, hr, herr, hinit⟩ := outputOf_engine c s
  exact ⟨_, r, exec_eq_next _ s, by rw [resultOf_outs, hr], statusCode_ne r.status, herr, hinit⟩

/-! ### Messages (R73, R131) -/

/-- MSG's command number `j` carries Word number `j`, with `last` on the last one (R73). -/
theorem msg_getElem? {ws : List Word} {j : Nat} {w : Word} (h : ws[j]? = some w) :
    (msg ws)[j]? = some (.proc w (j + 1 == ws.length)) := by
  induction ws generalizing j with
  | nil => simp at h
  | cons u us ih =>
    cases j with
    | zero =>
      obtain rfl : u = w := by simpa using h
      cases us <;> simp [msg_cons]
    | succ j =>
      rw [List.getElem?_cons_succ] at h
      simp [msg_cons, ih h]

/-- Word `j` of the keystream that begins with the block of `x`: Word `j mod 16` of the block `j div 16` counter
values on (R131). -/
def keystreamWord (x : Words16) (j : Nat) : Word :=
  (block (x.set 12 (x[12] + BitVec.ofNat 32 (j / 16))))[j % 16]'(Nat.mod_lt j (by decide))

/-- The first sixteen keystream Words are the block of the state as it is. -/
theorem keystreamWord_of_lt (x : Words16) {j : Nat} (h : j < 16) : keystreamWord x j = (block x)[j] := by
  have hx : x.set 12 (x[12] + BitVec.ofNat 32 (j / 16)) = x := by
    simp [Nat.div_eq_of_lt h]
  simp only [keystreamWord, hx, Nat.mod_eq_of_lt h]

/-- From the next counter value the keystream is the same, sixteen Words on. -/
theorem keystreamWord_nextBlockState (x : Words16) (j : Nat) :
    keystreamWord (nextBlockState x) j = keystreamWord x (j + 16) := by
  have hc : 0x00000001#32 + BitVec.ofNat 32 (j / 16) = BitVec.ofNat 32 ((j + 16) / 16) := by
    rw [Nat.add_div_right j (by decide), Nat.add_comm, BitVec.ofNat_add]
  simp only [keystreamWord, nextBlockState_eq, Vector.getElem_set_self, Vector.set_set, BitVec.add_assoc, hc,
    Nat.add_mod_right]

/-- PROCESS gives one Word for each (R131). -/
theorem process_length (x : Words16) (ws : List Word) : (process x ws).1.length = ws.length := by
  induction ws using chunk_induction generalizing x with
  | nil => rfl
  | chunk ws h ih =>
    simp only [process_chunk x ws h, List.length_append, ih, List.length_zipWith, List.length_take, List.length_drop,
      Vector.length_toList]
    omega

/-- Output Word `j` of PROCESS is input Word `j` XORed with keystream Word `j` (R131). -/
theorem process_getElem? (x : Words16) (ws : List Word) (j : Nat) :
    (process x ws).1[j]? = ws[j]?.map (· ^^^ keystreamWord x j) := by
  induction ws using chunk_induction generalizing x j with
  | nil => rfl
  | chunk ws h ih =>
    rcases Nat.lt_or_ge j ws.length with hj | hj
    · have hl : (List.zipWith xor32 (ws.take 16) (block x).toList).length = min 16 ws.length := by simp
      rw [process_chunk x ws h]
      rcases Nat.lt_or_ge j 16 with h16 | h16
      · rw [List.getElem?_append_left (by omega), keystreamWord_of_lt x h16]
        simp [h16, hj]
      · have hk : 16 + (j - 16) = j := Nat.add_sub_cancel' h16
        rw [List.getElem?_append_right (by omega), hl, Nat.min_eq_left (by omega), ih, keystreamWord_nextBlockState,
          List.getElem?_drop, Nat.add_comm (j - 16), hk]
    · rw [List.getElem?_eq_none (by rwa [process_length]), List.getElem?_eq_none hj, Option.map_none]

/-- PROCESS of zero Words is the keystream (R73). -/
theorem process_zeros_getElem? (x : Words16) {n j : Nat} (h : j < n) :
    (process x (List.replicate n 0x00000000#32)).1[j]? = some (keystreamWord x j) := by
  rw [process_getElem?, List.getElem?_replicate_of_lt h, Option.map_some, BitVec.zero_xor]

/-- Settles O38: MSG Word by Word, ENCRYPT and DECRYPT by definition, and KEYSTREAM through PROCESS of zeros. -/
theorem pseudoOperationsAreMessages : Obligations.PseudoOperationsAreMessages :=
  ⟨fun _ _ _ h => msg_getElem? h, msg_length, fun _ => ⟨rfl, rfl⟩, fun _ => rfl,
    fun x _ _ h => process_zeros_getElem? x h⟩

/-! ### The handshake (R70, R189, R191) -/

section Response
variable {q : Pins} {f : Flight} {c : ClockState}

theorem rspPins_of_idle (p : Pins) (hf : c.flight = none) : rspPins p c = none := by simp [rspPins, hf]

theorem rspPins_of_early (hf : c.flight = some f) (hl : f.left ≠ 0) : rspPins q c = none := by
  simp [rspPins, hf, hl]

theorem rspPins_of_due {r : Response} (hq : q.rst = false) (hf : c.flight = some f) (hl : f.left = 0)
    (hp : f.pending = [.rsp r]) : rspPins q c = some r := by
  simp [rspPins, hq, hf, hl, hp, responseOf]

end Response

/-- The clocked state `k` edges after a command was accepted, its response still to come. -/
def waitingState (lat : Config.Latencies) (c : Command) (s : State) (k : Nat) : ClockState :=
  { acceptedState lat c s with
    flight := some { pending := [outputOf (decode (.engine c)) s], left := commandLatency lat c s - k } }

/-- From acceptance on, edges only count the latency down, whatever the command pins say (R70, R189). -/
theorem clockRun_accept {lat : Config.Latencies} {p : Pins} {ps : List Pins} {c : ClockState} (hf : c.flight = none)
    (hp : p.rst = false) (hv : p.cmdValid = true) (hps : ∀ p' ∈ ps, p'.rst = false)
    (hl : ps.length ≤ commandLatency lat p.cmd c.st) :
    clockRun lat (p :: ps) c = .next (waitingState lat p.cmd c.st ps.length) := by
  rw [clockRun_cons lat ps (clockEdge_accept lat hp hf hv)]
  exact clockRun_countdown lat _ _ ps hps hl

/-- The edge that ends the response's cycle leaves the engine idle, in the state its command leaves (R70). -/
theorem clockEdge_due {lat : Config.Latencies} {q : Pins} {c : Command} {s : State} (hq : q.rst = false) :
    clockEdge lat q (waitingState lat c s (commandLatency lat c s)) =
      .next { st := resultOf (decode (.engine c)) s, flight := none } := by
  rw [clockEdge_wait lat hq rfl, waitForResponse, if_pos (Nat.sub_self _)]
  simp only [waitingState, acceptedState, ← resultOf_outs]
  rfl

/-- Settles O52: the run counts the latency down to the response's cycle, and one edge more ends that cycle. -/
theorem responseComesAfterItsLatency : Obligations.ResponseComesAfterItsLatency := by
  intro lat p q ps c hf hp hv hq hps
  obtain ⟨r, hr, -, -⟩ := outputOf_engine p.cmd c.st
  refine ⟨cmdReady_of_idle hp hf, rspPins_of_idle p hf, _, r, exec_eq_next _ c.st, by rw [resultOf_outs, hr], ?_, ?_⟩
  · intro hl
    exact ⟨_, clockRun_accept hf hp hv hps hl.le, cmdReady_of_flight rfl,
      rspPins_of_early rfl (Nat.sub_ne_zero_of_lt hl)⟩
  · intro hl
    have hrun := clockRun_accept hf hp hv hps hl.le
    rw [hl] at hrun
    refine ⟨_, _, hrun, cmdReady_of_flight rfl, rspPins_of_due hq rfl (Nat.sub_self _) ?_, clockEdge_due hq, rfl,
      cmdReady_of_idle hq rfl⟩
    rw [hr]

/-- Settles O54: an idle engine is ready and keeps its state, a flight makes it not ready, and every edge is a step or
a pause. -/
theorem idleEngineIsReady : Obligations.IdleEngineIsReady := by
  intro lat p c hp
  refine ⟨fun hf => ⟨cmdReady_of_idle hp hf, rspPins_of_idle p hf, clockEdge_idle lat hp hf⟩, fun hf => ?_, ?_⟩
  · obtain ⟨f, hf⟩ := Option.ne_none_iff_exists'.mp hf
    exact cmdReady_of_flight hf
  · obtain ⟨c', he, -, -⟩ := clockEdge_isStep lat c hp
    exact ⟨c', he⟩

end Sys2Proof.Machine
end

section
/-! PROOF. The Word algebra (40_word_algebra): ADD, XOR and ROTL on the Words (R81, R82, R83), what undoes each of them
(R86), and that none of the stateless modules' operations touches the engine (R80, R84, R85, R116). -/

namespace Sys2Proof.Machine

/-! ### ADD and XOR (R81, R82, R86) -/

/-- Doubling is a shift by one, bit 31 lost (R81). -/
theorem add32_self (a : Word) : add32 a a = a <<< 1 := by
  rw [add32_eq, BitVec.shiftLeft_eq_mul_twoPow, BitVec.twoPow_eq]
  exact BitVec.mul_two.symm

/-- XOR with 32 ones is the complement (R82). -/
theorem xor32_ones (a : Word) : xor32 a 0xFFFFFFFF#32 = ~~~a := BitVec.xor_allOnes

theorem getLsbD_xor32_iff (a b : Word) (i : Nat) :
    (xor32 a b).getLsbD i = true ↔ a.getLsbD i ≠ b.getLsbD i := by
  rw [xor32_eq, BitVec.getLsbD_xor, Bool.xor_iff_ne]

/-- XOR with the same Word twice changes nothing (R82, R86). -/
theorem xor32_xor32_cancel (a b : Word) : xor32 (xor32 a b) b = a := by
  rw [xor32_eq, xor32_eq, BitVec.xor_assoc, BitVec.xor_self, BitVec.xor_zero]

/-- R86 subtracts by adding the complement and one: the two's complement. -/
theorem add32_complement_one (b : Word) : add32 (xor32 b 0xFFFFFFFF#32) 0x00000001#32 = -b := by
  rw [xor32_ones, add32_eq, BitVec.neg_eq_not_add]

theorem toNat_of_add32 (a b : Word) : a.toNat = (2 ^ 32 + (add32 a b).toNat - b.toNat) % 2 ^ 32 := by
  have ha : a.toNat < 2 ^ 32 := a.isLt
  have hb : b.toNat < 2 ^ 32 := b.isLt
  rw [add32_eq, BitVec.toNat_add]
  omega

/-! ### ROTL (R83, R86) -/

/-- The rule's first form: bit `i` moves to position `(i + n) mod 32` (R83). -/
theorem getLsbD_rotl32_moved (a : Word) (n : BitVec 5) {i : Nat} (hi : i < 32) :
    (rotl32 a n).getLsbD ((i + n.toNat) % 32) = a.getLsbD i := by
  have hn : n.toNat < 32 := n.isLt
  have hback : ((i + n.toNat) % 32 + (32 - n.toNat)) % 32 = i := by omega
  rw [getLsbD_rotl32 a n _ (Nat.mod_lt _ (by decide)), hback]

/-- The two parts of the rule's second form share no bit: one lies above position `n`, the other below (R83). -/
theorem shiftLeft_and_ushiftRight_eq_zero (a : Word) {n : Nat} (hn : n ≤ 32) : a <<< n &&& a >>> (32 - n) = 0 := by
  refine BitVec.eq_of_getLsbD_eq fun i _ => ?_
  rw [BitVec.getLsbD_and, BitVec.getLsbD_shiftLeft, BitVec.getLsbD_ushiftRight]
  rcases Nat.lt_or_ge i n with h | h
  · simp [h]
  · rw [BitVec.getLsbD_of_ge a (32 - n + i) (by omega)]
    simp

/-- The rule's second form, in integers (R83). -/
theorem toNat_rotl32 (a : Word) {n : BitVec 5} (hn : 1 ≤ n.toNat) :
    (rotl32 a n).toNat = (a.toNat * 2 ^ n.toNat) % 2 ^ 32 + a.toNat / 2 ^ (32 - n.toNat) := by
  have hn0 : n ≠ 0 := by rintro rfl; exact absurd hn (by decide)
  have hdisjoint := shiftLeft_and_ushiftRight_eq_zero a n.isLt.le
  rw [rotl32, if_neg hn0, ← BitVec.add_eq_or_of_and_eq_zero _ _ hdisjoint,
    BitVec.toNat_add_of_and_eq_zero hdisjoint, BitVec.toNat_shiftLeft, BitVec.toNat_ushiftRight, Nat.shiftLeft_eq,
    Nat.shiftRight_eq_div_pow]

/-- A Word whose bits are all alike is not changed by a rotation (R83). -/
theorem rotl32_of_bits_alike {a : Word} {b : Bool} (h : ∀ i < 32, a.getLsbD i = b) (n : BitVec 5) : rotl32 a n = a := by
  refine BitVec.eq_of_getLsbD_eq fun i hi => ?_
  rw [getLsbD_rotl32 a n i hi, h _ (Nat.mod_lt _ (by decide)), h i hi]

/-- Over a whole period of a predicate, the count does not depend on where it begins. -/
theorem countP_range_shift_of_periodic {p : Nat → Bool} {c : Nat} (h : Function.Periodic p c) (k : Nat) :
    (List.range c).countP (fun i => p (k + i)) = (List.range c).countP p := by
  have hsplit (m n : Nat) : (List.range (m + n)).countP p =
      (List.range m).countP p + (List.range n).countP (fun i => p (m + i)) := by
    rw [List.range_add, List.countP_append, List.countP_map]
    rfl
  have hperiod : (fun i => p (c + i)) = p := funext fun i => by rw [Nat.add_comm, h i]
  have hsum : (List.range k).countP p + (List.range c).countP (fun i => p (k + i)) =
      (List.range c).countP p + (List.range k).countP p :=
    calc (List.range k).countP p + (List.range c).countP (fun i => p (k + i))
      _ = (List.range (c + k)).countP p := by rw [← hsplit, Nat.add_comm]
      _ = (List.range c).countP p + (List.range k).countP p := by rw [hsplit, hperiod]
  omega

/-- A Word's bits, repeated with period 32. -/
def repeatedBit (a : Word) (i : Nat) : Bool := a.getLsbD (i % 32)

theorem repeatedBit_periodic (a : Word) : Function.Periodic (repeatedBit a) 32 := fun i => by
  rw [repeatedBit, repeatedBit, Nat.add_mod_right]

/-- A rotation keeps the number of 1 bits: it reads the repeated bits over one period, from another place on (R83). -/
theorem countP_rotl32 (a : Word) (n : BitVec 5) :
    (List.range 32).countP (fun i => (rotl32 a n).getLsbD i) = (List.range 32).countP (fun i => a.getLsbD i) :=
  calc (List.range 32).countP (fun i => (rotl32 a n).getLsbD i)
    _ = (List.range 32).countP (fun i => repeatedBit a (32 - n.toNat + i)) :=
      List.countP_congr fun i hi => by
        rw [getLsbD_rotl32 a n i (List.mem_range.mp hi), repeatedBit, Nat.add_comm i]
    _ = (List.range 32).countP (repeatedBit a) := countP_range_shift_of_periodic (repeatedBit_periodic a) _
    _ = (List.range 32).countP (fun i => a.getLsbD i) :=
      List.countP_congr fun i hi => by rw [repeatedBit, Nat.mod_eq_of_lt (List.mem_range.mp hi)]

/-- The amount R86 rotates back by. -/
def backAmount (n : BitVec 5) : BitVec 5 := BitVec.ofNat 5 ((32 - n.toNat) % 32)

/-- The two amounts together go once round the Word. -/
theorem add_backAmount (n : BitVec 5) : (n.toNat + (backAmount n).toNat) % 32 = 0 := by
  have hn : n.toNat < 32 := n.isLt
  rw [backAmount, BitVec.toNat_ofNat]
  omega

theorem rotl32_backAmount (a : Word) (n : BitVec 5) : rotl32 (rotl32 a n) (backAmount n) = a :=
  rotl32_undo a n (backAmount n) (add_backAmount n)

theorem backAmount_rotl32 (a : Word) (n : BitVec 5) : rotl32 (rotl32 a (backAmount n)) n = a :=
  rotl32_undo a (backAmount n) n (by rw [Nat.add_comm, add_backAmount])

theorem rotl32_bijective (n : BitVec 5) : Function.Bijective fun a => rotl32 a n :=
  Function.bijective_iff_has_inverse.mpr
    ⟨fun y => rotl32 y (backAmount n), fun a => rotl32_backAmount a n, fun y => backAmount_rotl32 y n⟩

/-- Settles O6: ADD adds the two's complement, XOR is its own inverse, ROTL rotates on to 32. -/
theorem wordOperationsAreInvertible : Obligations.WordOperationsAreInvertible := by
  refine ⟨fun a b => ⟨?_, toNat_of_add32 a b⟩, xor32_xor32_cancel, rotl32_backAmount,
    AddGroup.addRight_bijective, fun b => ?_, rotl32_bijective⟩
  · rw [add32_complement_one, add32_eq, add32_eq, BitVec.add_assoc, BitVec.add_right_neg, BitVec.add_zero]
  · exact Function.Involutive.bijective fun a => xor32_xor32_cancel a b

/-! ### What the operations do to the engine (R80) -/

/-- An operation that writes nothing completes with its output, and all else is as it was (R34, R80). -/
theorem exec_of_writesNothing {i : Instr} {s : State} (h : WritesNothing i s) :
    exec i s = .next (emit (outputOf i s) s) := by
  rw [exec_eq_next, resultOf_of_writesNothing h]

/-- Settles O3: both forms of the rule hold bit by bit, and the corner cases follow from where each bit goes. -/
theorem rotlMovesEveryBit : Obligations.RotlMovesEveryBit := by
  refine ⟨fun a n s => ⟨rotl32 a n, fun i hi => getLsbD_rotl32_moved a n hi, fun h => ?zeroAmount,
      fun h => toNat_rotl32 a h, exec_of_writesNothing ⟨nofun, nofun⟩⟩,
    fun a n => rfl, fun n => ⟨?zeros, ?ones⟩, fun a m n => ?composition, countP_rotl32,
    by decide, by decide, by decide, by decide, by decide, by decide⟩
  case zeroAmount =>
    obtain rfl : n = 0#5 := BitVec.eq_of_toNat_eq h
    exact rotl32_zero_amount a
  case zeros => exact rotl32_of_bits_alike (fun i _ => BitVec.getLsbD_zero) n
  case ones =>
    have hones : ∀ i < 32, (BitVec.allOnes 32).getLsbD i = true := fun i hi =>
      BitVec.getLsbD_allOnes.trans (decide_eq_true hi)
    exact rotl32_of_bits_alike hones n
  case composition =>
    refine rotl32_rotl32 a m n _ ?_
    rw [BitVec.toNat_ofNat, Nat.mod_mod]

/-- Settles O1: ADD answers the bit vectors' own sum. -/
theorem addAnswersTheWrappedSum : Obligations.AddAnswersTheWrappedSum := by
  refine ⟨fun a b s => ⟨add32 a b, BitVec.toNat_add a b, exec_of_writesNothing ⟨nofun, nofun⟩⟩,
    fun a b => rfl, fun a => BitVec.add_zero a, BitVec.add_comm, BitVec.add_assoc, fun a => ⟨?_, add32_self a⟩,
    by decide, by decide, by decide, by decide, by decide⟩
  rw [add32_eq, BitVec.toNat_add, Nat.two_mul]

/-- Settles O2: XOR answers the bit vectors' own exclusive-or. -/
theorem xorAnswersTheDifferingBits : Obligations.XorAnswersTheDifferingBits := by
  refine ⟨fun a b s => ⟨xor32 a b, fun i _ => getLsbD_xor32_iff a b i, exec_of_writesNothing ⟨nofun, nofun⟩⟩,
    fun a b => rfl, fun a => ⟨BitVec.xor_zero, BitVec.xor_self, xor32_ones a⟩,
    fun a b => ⟨xor32_xor32_cancel a b, BitVec.xor_comm a b⟩, BitVec.xor_assoc, by decide⟩

/-- Settles O4: the constants' meanings, INIT's Word 12, and the counter write. -/
theorem constantsAreZeroAndOne : Obligations.ConstantsAreZeroAndOne := by
  refine ⟨fun s => exec_of_writesNothing ⟨nofun, nofun⟩, fun s => exec_of_writesNothing ⟨nofun, nofun⟩,
    fun key nonce => rfl, fun s => ?_⟩
  rw [incrementCounter_S, Vector.getElem_set_self, add32_eq, oneWord_eq]

/-- Settles O5: each result is the operation's function of its operands alone, and the operation writes nothing. -/
theorem statelessModulesTouchNoState : Obligations.StatelessModulesTouchNoState :=
  ⟨fun a b => ⟨add32 a b, fun _ => exec_of_writesNothing ⟨nofun, nofun⟩⟩,
    fun a b => ⟨xor32 a b, fun _ => exec_of_writesNothing ⟨nofun, nofun⟩⟩,
    fun a n => ⟨rotl32 a n, fun _ => exec_of_writesNothing ⟨nofun, nofun⟩⟩,
    ⟨zeroWord, fun _ => exec_of_writesNothing ⟨nofun, nofun⟩⟩,
    ⟨oneWord, fun _ => exec_of_writesNothing ⟨nofun, nofun⟩⟩,
    fun _ _ _ _ => ⟨_, _, _, _, fun _ => exec_of_writesNothing ⟨nofun, nofun⟩⟩,
    fun x => ⟨block x, fun _ => exec_of_writesNothing ⟨nofun, nofun⟩⟩⟩

end Sys2Proof.Machine
end

section
/-! PROOF. The quarter-round (41_quarter_round): what QR answers (R100), which Words of an array QRS writes (R101), and how
QR is undone (R103). -/

namespace Sys2Proof.Machine

/-! ### QR as four times the same three steps (R100, R103) -/

/-- Three of R100's twelve steps, an addition, an exclusive-or and a rotation, after which the Words trade roles so that
the next three steps have the same form. -/
def addXorRotate (n : BitVec 5) (x : Quad) : Quad :=
  { a := x.c, b := rotl32 (x.d ^^^ (x.a + x.b)) n, c := x.a + x.b, d := x.b }

/-- The same three steps undone: `m` rotates back what `addXorRotate` rotated (R86). -/
def undoAddXorRotate (m : BitVec 5) (y : Quad) : Quad :=
  { a := y.c - y.d, b := y.d, c := y.a, d := rotl32 y.b m ^^^ y.c }

/-- The twelve steps are four times three, with the rotation amounts of R102, and the roles are back in place. -/
theorem quarterRound_eq_addXorRotate :
    quarterRound = ((addXorRotate 7#5 ∘ addXorRotate 8#5) ∘ addXorRotate 12#5) ∘ addXorRotate 16#5 := rfl

theorem undoAddXorRotate_leftInverse {n m : BitVec 5} (h : (n.toNat + m.toNat) % 32 = 0) :
    Function.LeftInverse (undoAddXorRotate m) (addXorRotate n) := fun x => by
  simp only [undoAddXorRotate, addXorRotate, rotl32_undo _ n m h, BitVec.add_sub_cancel, BitVec.xor_assoc,
    BitVec.xor_self, BitVec.xor_zero]

theorem undoAddXorRotate_rightInverse {n m : BitVec 5} (h : (m.toNat + n.toNat) % 32 = 0) :
    Function.RightInverse (undoAddXorRotate m) (addXorRotate n) := fun y => by
  simp only [undoAddXorRotate, addXorRotate, BitVec.sub_add_cancel, BitVec.xor_assoc, BitVec.xor_self,
    BitVec.xor_zero, rotl32_undo _ m n h]

theorem addXorRotate_bijective (n : BitVec 5) : Function.Bijective (addXorRotate n) :=
  ⟨(undoAddXorRotate_leftInverse (add_backAmount n)).injective,
    (undoAddXorRotate_rightInverse (m := backAmount n) (by rw [Nat.add_comm, add_backAmount])).surjective⟩

theorem quarterRound_bijective : Function.Bijective quarterRound := by
  rw [quarterRound_eq_addXorRotate]
  exact (((addXorRotate_bijective 7#5).comp (addXorRotate_bijective 8#5)).comp (addXorRotate_bijective 12#5)).comp
    (addXorRotate_bijective 16#5)

/-- The reverse steps of R103 (a): each amount makes 32 with the one it undoes. -/
def undoQuarterRound : Quad → Quad :=
  undoAddXorRotate 16#5 ∘ undoAddXorRotate 20#5 ∘ undoAddXorRotate 24#5 ∘ undoAddXorRotate 25#5

theorem undoQuarterRound_leftInverse : Function.LeftInverse undoQuarterRound quarterRound := by
  have h7 := undoAddXorRotate_leftInverse (n := 7#5) (m := 25#5) rfl
  have h8 := undoAddXorRotate_leftInverse (n := 8#5) (m := 24#5) rfl
  have h12 := undoAddXorRotate_leftInverse (n := 12#5) (m := 20#5) rfl
  have h16 := undoAddXorRotate_leftInverse (n := 16#5) (m := 16#5) rfl
  rw [undoQuarterRound, quarterRound_eq_addXorRotate]
  exact ((h7.comp h8).comp h12).comp h16

/-- Settles O9: the reverse steps are the undone threes, last first, and QR is a composition of bijections. -/
theorem quarterRoundIsBijective : Obligations.QuarterRoundIsBijective :=
  ⟨fun x => (undoQuarterRound_leftInverse x).symm, quarterRound_bijective, by decide⟩

/-! ### QRS on an array (R101) -/

theorem notMem_slots {g : IndexGroup} {i : Fin 16} (ha : i ≠ g.a) (hb : i ≠ g.b) (hc : i ≠ g.c) (hd : i ≠ g.d) :
    i ∉ slots g := by
  simp only [slots, List.mem_cons, List.not_mem_nil, or_false, not_or]
  exact ⟨ha, hb, hc, hd⟩

/-- QRS puts `q`, the result of QR on the Words read, into the four slots, and leaves the others. -/
theorem qrs_getElem {g : IndexGroup} {x : Words16} {q : Quad} (hg : g.wf = true)
    (hq : quarterRound (readGroup g x) = q) :
    (qrs g x)[g.a] = q.a ∧ (qrs g x)[g.b] = q.b ∧ (qrs g x)[g.c] = q.c ∧ (qrs g x)[g.d] = q.d ∧
    ∀ i : Fin 16, i ≠ g.a → i ≠ g.b → i ≠ g.c → i ≠ g.d → (qrs g x)[i] = x[i] := by
  have hslots : readGroup g (qrs g x) = q := (readGroup_qrs g x hg).trans hq
  exact ⟨congrArg Quad.a hslots, congrArg Quad.b hslots, congrArg Quad.c hslots, congrArg Quad.d hslots,
    fun i ha hb hc hd => qrs_other g x i (notMem_slots ha hb hc hd)⟩

/-- Settles O8: the general statement is that of one QRS, and so is the example, once QR on its four Words is computed. -/
theorem qrsUpdatesItsFourSlots : Obligations.QrsUpdatesItsFourSlots := by
  refine ⟨fun g x hg => qrs_getElem hg rfl, List.forall_mem_append.mpr ⟨columnGroups_wf, diagonalGroups_wf⟩,
    fun x h2 h7 h8 h13 => ?_⟩
  have hread : readGroup ⟨2, 7, 8, 13⟩ x = ⟨0x516461B1#32, 0x2A5F714C#32, 0x53372767#32, 0x3D631689#32⟩ := by
    rw [readGroup, Quad.mk.injEq]
    exact ⟨h2, h7, h8, h13⟩
  have hqr : quarterRound ⟨0x516461B1#32, 0x2A5F714C#32, 0x53372767#32, 0x3D631689#32⟩ =
      ⟨0xBDB886DC#32, 0xCFACAFD2#32, 0xE46BEA80#32, 0xCCC07C79#32⟩ := by decide
  exact qrs_getElem (by decide) ((congrArg quarterRound hread).trans hqr)

/-! ### The twelve steps (R100) -/

/-- Settles O7: with each intermediate replaced by what its step gives, the four results are those of `quarterRound`, and
QR writes nothing. -/
theorem quarterRoundFollowsTheTwelveSteps : Obligations.QuarterRoundFollowsTheTwelveSteps := by
  refine ⟨?steps, fun a b c d => rfl, by decide, by decide, by decide, by decide⟩
  case steps =>
    rintro a0 b0 c0 d0 _ _ _ _ _ _ _ _ _ _ _ _ s rfl rfl rfl rfl rfl rfl rfl rfl rfl rfl rfl rfl
    exact exec_of_writesNothing ⟨nofun, nofun⟩

end Sys2Proof.Machine
end

section
/-! PROOF. The block function (42_block_function): what a pass does to the groups it is made of (R111, R112, R118), ten
double-rounds and the feed-forward (R113 to R115), and why no two inputs mix to the same array (R119). -/

namespace Sys2Proof.Machine

/-! ### A pass (R111, R112, R118) -/

theorem groupPass_cons (g : IndexGroup) (gs : List IndexGroup) (w : Words16) :
    groupPass (g :: gs) w = groupPass gs (qrs g w) := rfl

/-- The groups one pass may be made of: each has four slots, and no two share one (R118). -/
structure IsPass (gs : List IndexGroup) : Prop where
  wf : ∀ g ∈ gs, g.wf = true
  nodup : gs.Nodup
  disjoint : ∀ g ∈ gs, ∀ g' ∈ gs, g ≠ g' → ∀ i ∈ slots g', i ∉ slots g

theorem columnGroups_isPass : IsPass columnGroups := ⟨columnGroups_wf, by decide, columnGroups_disjoint⟩

theorem diagonalGroups_isPass : IsPass diagonalGroups := ⟨diagonalGroups_wf, by decide, diagonalGroups_disjoint⟩

/-- The quarter-rounds of a pass give the same array in any order (R118). -/
theorem IsPass.groupPass_perm {gs gs' : List IndexGroup} (h : IsPass gs) (hp : gs'.Perm gs) (w : Words16) :
    groupPass gs' w = groupPass gs w := by
  refine (hp.symm.foldl_eq' (fun g hg g' hg' x => ?_) w).symm
  by_cases hne : g = g'
  · rw [hne]
  · exact qrs_comm g' g x (h.wf g' hg') (h.wf g hg) (h.disjoint g' hg' g hg (Ne.symm hne))

/-- Quarter-rounds on other slots leave a group's Words as they are (R101). -/
theorem readGroup_groupPass_of_disjoint {g : IndexGroup} {gs : List IndexGroup}
    (h : ∀ g' ∈ gs, ∀ i ∈ slots g, i ∉ slots g') (w : Words16) : readGroup g (groupPass gs w) = readGroup g w := by
  induction gs generalizing w with
  | nil => rfl
  | cons g' gs ih =>
    obtain ⟨hg', hgs⟩ := List.forall_mem_cons.mp h
    rw [groupPass_cons, ih hgs, readGroup_qrs_disjoint g' g w hg']

/-- A pass is QR on each of its groups: the group may go first, and the rest of the pass does not touch it. -/
theorem IsPass.readGroup_groupPass {g : IndexGroup} {gs : List IndexGroup} (h : IsPass gs) (hg : g ∈ gs) (w : Words16) :
    readGroup g (groupPass gs w) = quarterRound (readGroup g w) := by
  have hrest : ∀ g' ∈ gs.erase g, ∀ i ∈ slots g, i ∉ slots g' := fun g' hg' => by
    obtain ⟨hne, hmem⟩ := h.nodup.mem_erase_iff.mp hg'
    exact h.disjoint g' hmem g hg hne
  rw [← h.groupPass_perm (List.perm_cons_erase hg).symm, groupPass_cons, readGroup_groupPass_of_disjoint hrest,
    readGroup_qrs g w (h.wf g hg)]

/-! ### The example state of R110, mixed (R111 to R114) -/

/-- R110's example: the constants, with key, counter and nonce all zero. -/
def constantsOnly : Words16 :=
  #v[0x61707865, 0x3320646e, 0x79622d32, 0x6b206574, 0, 0, 0, 0, 0, 0, 0, 0, 0, 0, 0, 0]

/-- The example's state after the column pass (R111). -/
def constantsAfterColPass : Words16 :=
  #v[0xb7877feb, 0x16526ab4, 0xa0f85005, 0xb1d26bcb, 0x4a7d5c86, 0xfae0ea21, 0x66e11e68, 0xe3a851a6,
     0x5a83fd3f, 0xa0c7c792, 0xf75be0ef, 0x0b7556f4, 0xe21e9bcf, 0x3c599472, 0xca29678d, 0xa600ebd4]

/-- The example's state after the first double-round (R112, R113). -/
def constantsAfterDoubleRound : Words16 :=
  #v[0xe45fd249, 0x1bb820a6, 0xe31a88ea, 0xe667a9fe, 0x2a3bf673, 0x86bf4098, 0x460b500a, 0xfa169886,
     0x538dca0e, 0x0c439641, 0x00fa16bc, 0x8a08812a, 0x6bbf8b09, 0xc33013d6, 0xbb9f9849, 0x87c62165]

/-- The example's state after the ten double-rounds (R114). -/
def constantsAfterRounds : Words16 :=
  #v[0x4c704011, 0x5d1d8d32, 0x6c08300e, 0xbd9d20df, 0xb819d2bd, 0x1aed8da0, 0xccef36a8, 0xc70d778b,
     0x7c5941da, 0x8d485751, 0x3fe02477, 0x374ad8b8, 0xf4b8436a, 0x1ca11815, 0x69b687c3, 0x8665eeb2]

theorem colPass_constantsOnly : colPass constantsOnly = constantsAfterColPass := by decide

theorem diagPass_constantsAfterColPass : diagPass constantsAfterColPass = constantsAfterDoubleRound := by decide

theorem doubleRound_constantsOnly : doubleRound constantsOnly = constantsAfterDoubleRound := by
  rw [doubleRound, colPass_constantsOnly, diagPass_constantsAfterColPass]

theorem rounds_constantsOnly : rounds constantsOnly = constantsAfterRounds := by decide +kernel

/-- Settles O10: the columns are the groups of a pass, so the pass is QR on each, in any order. -/
theorem columnPassMixesTheColumns : Obligations.ColumnPassMixesTheColumns :=
  ⟨fun _ => rfl, fun w _ hg => columnGroups_isPass.readGroup_groupPass hg w, by decide,
    fun w _ hp => columnGroups_isPass.groupPass_perm hp w, colPass_constantsOnly, by decide⟩

/-- Settles O11: the diagonals are the groups of a pass as well. -/
theorem diagonalPassMixesTheDiagonals : Obligations.DiagonalPassMixesTheDiagonals :=
  ⟨fun _ => rfl, fun w _ hg => diagonalGroups_isPass.readGroup_groupPass hg w, ⟨rfl, rfl⟩, by decide,
    fun w _ hp => diagonalGroups_isPass.groupPass_perm hp w, diagPass_constantsAfterColPass⟩

/-- Settles O12: there are four groups, whose slots are compared with the formula and counted by column. -/
theorem diagonalsWrapAroundTheMatrix : Obligations.DiagonalsWrapAroundTheMatrix := by
  unfold Obligations.DiagonalsWrapAroundTheMatrix
  decide

/-! ### Nothing is lost in mixing (R103, R119) -/

/-- QRS is a bijection: QR is one on the group's four slots, and the other twelve Words stay (R101, R103). -/
theorem qrs_bijective {g : IndexGroup} (hg : g.wf = true) : Function.Bijective (qrs g) := by
  refine ⟨fun x y hxy => ?injective, fun y => ?surjective⟩
  case injective =>
    refine words16_ext_group g (quarterRound_bijective.injective ?_) fun i hi => ?_
    · rw [← readGroup_qrs g x hg, ← readGroup_qrs g y hg, hxy]
    · rw [← qrs_other g x i hi, ← qrs_other g y i hi, hxy]
  case surjective =>
    obtain ⟨q, hq⟩ := quarterRound_bijective.surjective (readGroup g y)
    refine ⟨writeGroup g q y, words16_ext_group g ?_ fun i hi => ?_⟩
    · rw [readGroup_qrs g _ hg, readGroup_writeGroup g q y hg, hq]
    · rw [qrs_other g _ i hi, writeGroup_other g q y i hi]

theorem groupPass_bijective {gs : List IndexGroup} (h : ∀ g ∈ gs, g.wf = true) : Function.Bijective (groupPass gs) := by
  induction gs with
  | nil => exact Function.bijective_id
  | cons g gs ih =>
    obtain ⟨hg, hgs⟩ := List.forall_mem_cons.mp h
    exact (ih hgs).comp (qrs_bijective hg)

theorem colPass_bijective : Function.Bijective colPass := groupPass_bijective columnGroups_wf

theorem diagPass_bijective : Function.Bijective diagPass := groupPass_bijective diagonalGroups_wf

theorem doubleRound_eq_comp : doubleRound = diagPass ∘ colPass := by
  funext w
  rw [doubleRound, Function.comp_apply]

theorem doubleRound_bijective : Function.Bijective doubleRound := by
  rw [doubleRound_eq_comp]
  exact diagPass_bijective.comp colPass_bijective

theorem rounds_eq_iterate (w : Words16) : rounds w = doubleRound^[10] w := doubleRounds_eq_iterate 10 w

theorem rounds_bijective : Function.Bijective rounds := by
  rw [funext rounds_eq_iterate]
  exact doubleRound_bijective.iterate 10

theorem set_counter_injective (x : Words16) : Function.Injective fun c : Word => x.set 12 c := fun c c' h => by
  simpa only [Vector.getElem_set_self] using congrArg (fun y : Words16 => y[12]) h

/-- Settles O15: ROUNDS is a composition of bijections, and the two blocks of the example are computed. -/
theorem roundsAreBijective : Obligations.RoundsAreBijective :=
  ⟨rounds_bijective, fun x _ _ hc => rounds_bijective.injective.ne ((set_counter_injective x).ne hc), by decide +kernel⟩

/-! ### Ten double-rounds and the feed-forward (R113 to R115) -/

/-- Settles O13: ROUNDS is an iteration, and the example state tells the two orders of the passes apart. -/
theorem roundsAreTenDoubleRounds : Obligations.RoundsAreTenDoubleRounds :=
  ⟨fun _ => rfl, ⟨constantsOnly, by decide +kernel⟩, rounds_eq_iterate, rfl, rfl, doubleRound_constantsOnly,
    rounds_constantsOnly⟩

/-- Settles O14: the block's Words are sums of bit vectors, and the example adds to what R114's example gives. -/
theorem blockIsRoundsPlusFeedForward : Obligations.BlockIsRoundsPlusFeedForward := by
  refine ⟨fun x0 s => ⟨block x0, fun i => ?sum, exec_of_writesNothing ⟨nofun, nofun⟩⟩, fun x0 => rfl,
    by decide +kernel, ?constants⟩
  case sum =>
    rw [block_get, rounds_eq_iterate, BitVec.toNat_add]
    rfl
  case constants =>
    change block constantsOnly = _
    rw [block, rounds_constantsOnly]
    decide +kernel

end Sys2Proof.Machine
end

section
/-! PROOF. The stream engine (43_stream_engine): what each command completes with (R132 to R135), PROCESS in closed form
(R130, R131, R137), and messages, on their own and with queries among them, against PROCESS (R134, R136, R137, R139). -/

namespace Sys2Proof.Machine

/-! ### One command (R132 to R135) -/

/-- Settles O16: the constants are R22's numerals, and the key and nonce Words are the slices of R67. -/
theorem initConstructsTheState : Obligations.InitConstructsTheState :=
  ⟨fun _ _ s => ⟨s.KS, rfl⟩, fun _ h => decode_engine_init h⟩

/-- Settles O22: the reserved code writes nothing, whatever the state. -/
theorem reservedOpcodeIsIllegal : Obligations.ReservedOpcodeIsIllegal :=
  ⟨fun _ => exec_of_writesNothing ⟨nofun, nofun⟩, fun _ h => decode_engine_rsvd h⟩

theorem exec_proc_keyed (data : Word) (last : Bool) {s : State} (hk : s.keyed = true) :
    exec (.proc data last) s = .next (procWord data last s) := by
  rw [exec_eq_next, resultOf_proc_keyed data last hk]

theorem exec_proc_unkeyed (data : Word) (last : Bool) {s : State} (hk : s.keyed = false) :
    exec (.proc data last) s = .next (raiseError .errNotInit s) := by
  rw [exec_eq_next, resultOf_proc_unkeyed data last hk]

theorem exec_rdctr_keyed {s : State} (hk : s.keyed = true) : exec .rdctr s = .next (respond .ok s.S[12] s) := by
  rw [exec_eq_next, resultOf_rdctr_keyed hk]

theorem exec_rdctr_unkeyed {s : State} (hk : s.keyed = false) :
    exec .rdctr s = .next (raiseError .errNotInit s) := by
  rw [exec_eq_next, resultOf_rdctr_unkeyed hk]

theorem nextPos_eq (p : Fin 16) (last : Bool) : nextPos p last = if p = 15 ∨ last = true then 0 else p + 1 := by
  simp only [nextPos, endsChunk_iff]

/-- With key and nonce zero INIT constructs the example state of R110. -/
theorem constructedState_zero : constructedState 0 0 = constantsOnly := by decide

/-- The example's first keystream Word: Word 0 after the rounds, plus the first constant (R133). -/
theorem block_constantsOnly_zero : (block constantsOnly)[(0 : Fin 16)] = 0xade0b876#32 := by
  rw [block_get, rounds_constantsOnly]
  decide

/-- In R133's example the engine answers the zero Word with the first keystream Word. -/
theorem procWord_initEngine_zero_outs (last : Bool) (s : State) :
    (procWord 0x00000000#32 last (initEngine 0 0 s)).outs =
      (initEngine 0 0 s).outs ++ [.rsp ⟨.ok, 0xade0b876#32⟩] := by
  simp only [procWord_outs, initEngine_pos, initEngine_S, if_true, constructedState_zero, block_constantsOnly_zero,
    BitVec.zero_xor]

/-- Settles O19: field by field what PROC leaves on a keyed engine; the example from INIT's state. -/
theorem procProcessesOneWord : Obligations.ProcProcessesOneWord := by
  refine ⟨fun data last s hk => exec_proc_unkeyed data last hk, fun data last s ks hk hks => ?keyed,
    fun _ h => decode_engine_proc h, fun s t ht => ?afterInit⟩
  case keyed =>
    rw [exec_proc_keyed data last hk, hks]
    have hpos := (procWord_pos data last s).trans (nextPos_eq s.pos last)
    exact congrArg _ (State.ext (procWord_S data last s) (procWord_keyed data last s) hpos (procWord_KS data last s)
      (procWord_resets data last s) (procWord_inputs data last s) (procWord_outs data last s))
  case afterInit =>
    obtain rfl : initEngine 0 0 s = t := Host.Outcome.next.inj ht
    exact ⟨⟨_, exec_proc_keyed _ false rfl, procWord_initEngine_zero_outs false s, rfl⟩,
      ⟨_, exec_proc_keyed _ true rfl, procWord_initEngine_zero_outs true s, rfl, rfl⟩⟩

/-! ### The counter of a block state (R130, R138) -/

/-- The block state `k` counter values on; the addition wraps (R138). -/
def atCounter (x : Words16) (k : Nat) : Words16 := x.set 12 (x[12] + BitVec.ofNat 32 k)

@[simp] theorem atCounter_zero (x : Words16) : atCounter x 0 = x := by simp [atCounter]

theorem atCounter_counter (x : Words16) (k : Nat) : (atCounter x k)[12] = x[12] + BitVec.ofNat 32 k :=
  Vector.getElem_set_self _

theorem nextBlockState_atCounter (x : Words16) (k : Nat) :
    nextBlockState (atCounter x k) = atCounter x (k + 1) := by
  rw [nextBlockState_eq, atCounter_counter, atCounter, Vector.set_set, BitVec.add_assoc, atCounter, BitVec.ofNat_add]

theorem atCounter_nextBlockState (x : Words16) (k : Nat) :
    atCounter (nextBlockState x) k = atCounter x (k + 1) := by
  induction k with
  | zero => rw [atCounter_zero, ← nextBlockState_atCounter, atCounter_zero]
  | succ k ih => rw [← nextBlockState_atCounter, ih, nextBlockState_atCounter]

/-- The wrapped counter as an integer (R134). -/
theorem atCounter_counter_toNat (x : Words16) (k : Nat) :
    (atCounter x k)[12].toNat = (x[12].toNat + k) % 2 ^ 32 := by
  rw [atCounter_counter, BitVec.toNat_add, BitVec.toNat_ofNat, Nat.add_mod_mod]

/-! ### PROCESS in closed form (R131) -/

/-- Words XORed with the keystream of `x`, from its Word `n` on. -/
def xorKeystream (x : Words16) (n : Nat) (ws : List Word) : List Word :=
  ws.mapIdx fun j w => w ^^^ keystreamWord x (n + j)

theorem xorKeystream_nil (x : Words16) (n : Nat) : xorKeystream x n [] = [] := rfl

theorem xorKeystream_cons (x : Words16) (n : Nat) (w : Word) (ws : List Word) :
    xorKeystream x n (w :: ws) = (w ^^^ keystreamWord x n) :: xorKeystream x (n + 1) ws := by
  simp only [xorKeystream, List.mapIdx_cons, Nat.add_zero, Nat.add_comm, Nat.add_left_comm]

theorem process_fst (x : Words16) (ws : List Word) : (process x ws).1 = xorKeystream x 0 ws :=
  List.ext_getElem? fun j => by rw [process_getElem?, xorKeystream, List.getElem?_mapIdx, Nat.zero_add]

/-- Every chunk, full or not, moves the counter on by one (R130). -/
theorem process_snd (x : Words16) (ws : List Word) : (process x ws).2 = atCounter x ((ws.length + 15) / 16) := by
  induction ws using chunk_induction generalizing x with
  | nil => exact (atCounter_zero x).symm
  | chunk ws h ih =>
    have hpos : 0 < ws.length := List.length_pos_iff.mpr h
    have hcount : (ws.length - 16 + 15) / 16 + 1 = (ws.length + 15) / 16 := by omega
    rw [process_chunk x ws h, ih, atCounter_nextBlockState, List.length_drop, hcount]

theorem process_counter (x : Words16) (ws : List Word) :
    (process x ws).2[12] = x[12] + BitVec.ofNat 32 ((ws.length + 15) / 16) := by
  rw [process_snd, atCounter_counter]

/-- Settles O36: the lengths, the output Words and the counter, each by its own induction over the chunks. -/
theorem processHasAClosedForm : Obligations.ProcessHasAClosedForm := by
  refine fun x ws => ⟨process_length x ws, fun j w hw => ?_, process_snd x ws⟩
  rw [process_getElem?, hw]
  rfl

/-- Settles O37: the counter moves on by the length divided by 16, rounded up. -/
theorem messageBoundaries : Obligations.MessageBoundaries := by
  refine ⟨process_nil, msg_nil, fun x ws h => ?_, fun x ws h => ?_, fun x ws h1 h16 => ?_⟩
  · rw [process_counter, h]; rfl
  · rw [process_counter, h]; rfl
  · have hone : (ws.length + 15) / 16 = 1 := by omega
    rw [process_counter, hone]; rfl

/-- Settles O39: both passes XOR the same keystream Word to each Word, and the counter goes by the length. -/
theorem processIsSelfInverse : Obligations.ProcessIsSelfInverse := by
  refine fun x ws => Prod.ext (List.ext_getElem? fun j => ?_) ?_
  · have hcancel : (· ^^^ keystreamWord x j) ∘ (· ^^^ keystreamWord x j) = id :=
      funext fun w => xor32_xor32_cancel w (keystreamWord x j)
    rw [process_getElem?, process_getElem?, Option.map_map, hcancel, Option.map_id, id]
  · rw [process_snd, process_snd, process_length]

/-! ### An engine within a message (R28, R29, R136) -/

/-- A response with status OK. -/
def okOutput (y : Word) : Output := .rsp ⟨.ok, y⟩

/-- The engine at the keystream's Word `n`, counted from the block of `x`: where a message that began at `x` stands
once its first `n` keystream Words are used up. -/
structure AtKeystreamWord (x : Words16) (n : Nat) (s : State) : Prop where
  keyed : s.keyed = true
  pos : s.pos.val = n % 16
  S : s.S = atCounter x (n / 16)
  keystream : Safety.KeystreamOfOpenChunk s

/-- Where the first `n` keystream Words end, counted in whole chunks: the rest of an open chunk is discarded (R133). -/
def chunkEnd (n : Nat) : Nat := 16 * ((n + 15) / 16)

theorem chunkEnd_chunkEnd (n : Nat) : chunkEnd (chunkEnd n) = chunkEnd n := by simp only [chunkEnd]; omega

namespace AtKeystreamWord
variable {x : Words16} {n : Nat} {s t : State}

/-- A keyed engine at pos 0 stands at the beginning of the keystream of its S. -/
theorem of_pos_zero (hk : s.keyed = true) (hp : s.pos = 0) : AtKeystreamWord s.S 0 s where
  keyed := hk
  pos := by rw [hp]; rfl
  S := (atCounter_zero s.S).symm
  keystream := fun h => absurd hp h

theorem pos_eq_zero (h : AtKeystreamWord x (chunkEnd n) s) : s.pos = 0 :=
  Fin.ext (h.pos.trans (Nat.mul_mod_right 16 _))

theorem S_eq_process {ws : List Word} (h : AtKeystreamWord x (chunkEnd ws.length) s) : s.S = (process x ws).2 := by
  rw [h.S, chunkEnd, Nat.mul_div_cancel_left _ (by decide), process_snd]

theorem of_sameEngine (he : Safety.SameEngine s t) (h : AtKeystreamWord x n s) : AtKeystreamWord x n t := by
  obtain ⟨hS, hkeyed, hpos, hKS, -⟩ := he
  refine ⟨hkeyed ▸ h.keyed, hpos ▸ h.pos, hS ▸ h.S, ?_⟩
  rw [Safety.KeystreamOfOpenChunk, ← hS, ← hpos, ← hKS]
  exact h.keystream

/-- The engine answers a PROC with its Word XORed with the keystream Word it stands at (R133). -/
theorem outputOf_proc (h : AtKeystreamWord x n s) (w : Word) (last : Bool) :
    outputOf (.proc w last) s = okOutput (w ^^^ keystreamWord x n) := by
  rw [outputOf_proc_keyed w last h.keyed, keystream_eq_block h.keystream, h.S, Fin.getElem_fin]
  simp only [h.pos]
  rfl

/-- A PROC that ends the chunk takes the engine to the next counter value, with no chunk open. -/
theorem procWord_of_ends (h : AtKeystreamWord x n s) (w : Word) {last : Bool} (he : s.pos = 15 ∨ last = true) :
    AtKeystreamWord x (16 * (n / 16 + 1)) (procWord w last s) where
  keyed := (procWord_keyed w last s).trans h.keyed
  pos := by rw [procWord_pos, nextPos_of_ends he, Nat.mul_mod_right]; rfl
  S := by
    rw [procWord_S, if_pos he, ← nextBlockState_eq, h.S, nextBlockState_atCounter,
      Nat.mul_div_cancel_left _ (by decide)]
  keystream := fun hp => absurd ((procWord_pos w last s).trans (nextPos_of_ends he)) hp

/-- Within the chunk a PROC takes the engine one Word on. -/
theorem procWord_of_not_ends (h : AtKeystreamWord x n s) (w : Word) {last : Bool}
    (he : ¬(s.pos = 15 ∨ last = true)) :
    AtKeystreamWord x (n + 1) (procWord w last s) where
  keyed := (procWord_keyed w last s).trans h.keyed
  pos := by
    have hp := h.pos
    rw [procWord_pos, nextPos_of_not_ends he]
    omega
  S := by
    have hp := h.pos
    have hdiv : (n + 1) / 16 = n / 16 := by omega
    rw [procWord_S, if_neg he, h.S, hdiv]
  keystream := fun _ => by rw [procWord_KS, keystream_eq_block h.keystream, procWord_S, if_neg he]

/-- A Word that is not the message's last takes the engine one keystream Word on, at a chunk's end too (R133). -/
theorem proc_not_last (h : AtKeystreamWord x n s) (w : Word) :
    AtKeystreamWord x (n + 1) (resultOf (.proc w false) s) := by
  rw [resultOf_proc_keyed w false h.keyed]
  by_cases he : s.pos = 15 ∨ false = true
  · have h15 := he.resolve_right Bool.false_ne_true
    have hp := h.pos
    have hn : 16 * (n / 16 + 1) = n + 1 := by omega
    exact hn ▸ h.procWord_of_ends w he
  · exact h.procWord_of_not_ends w he

/-- The message's last Word takes the engine to the end of the chunk (R133). -/
theorem proc_last (h : AtKeystreamWord x n s) (w : Word) :
    AtKeystreamWord x (chunkEnd (n + 1)) (resultOf (.proc w true) s) := by
  have hn : 16 * (n / 16 + 1) = chunkEnd (n + 1) := by rw [chunkEnd]; omega
  rw [resultOf_proc_keyed w true h.keyed]
  exact hn ▸ h.procWord_of_ends w (.inr rfl)

end AtKeystreamWord

/-! ### A message with queries among its commands (R134 to R136) -/

/-- The outputs a list of operations gives, in order. -/
def outputsOf : List Instr → State → List Output
  | [], _ => []
  | i :: is, s => outputOf i s :: outputsOf is (resultOf i s)

theorem outputsOf_length (is : List Instr) (s : State) : (outputsOf is s).length = is.length := by
  induction is generalizing s with
  | nil => rfl
  | cons i is ih => rw [outputsOf, List.length_cons, List.length_cons, ih]

theorem resultsOf_outs (is : List Instr) (s : State) : (resultsOf is s).outs = s.outs ++ outputsOf is s := by
  induction is generalizing s with
  | nil => exact (List.append_nil s.outs).symm
  | cons i is ih => rw [resultsOf_cons, ih, resultOf_outs, outputsOf, List.append_assoc, List.singleton_append]

/-- An operation other than RDCTR and RSVD. -/
def notQuery (i : Instr) : Bool := i != .rdctr && i != .rsvd

theorem writesNothing_of_query {i : Instr} (h : notQuery i = false) (s : State) : WritesNothing i s := by
  have hi : i = .rdctr ∨ i = .rsvd := by
    simpa [notQuery, Decidable.or_iff_not_imp_left] using h
  rcases hi with rfl | rfl <;> exact ⟨nofun, nofun⟩

theorem filter_notQuery_msg (ws : List Word) : (msg ws).filter notQuery = msg ws := by
  induction ws with
  | nil => rfl
  | cons w ws ih => rw [msg_cons, List.filter_cons_of_pos rfl, ih]

/-- The outputs of a list of operations without those of its queries. -/
def wordOutputs (is : List Instr) (s : State) : List Output :=
  ((is.zip (outputsOf is s)).filter fun p => notQuery p.1).map Prod.snd

theorem wordOutputs_cons_query {i : Instr} (is : List Instr) (s : State) (h : notQuery i = false) :
    wordOutputs (i :: is) s = wordOutputs is (resultOf i s) := by
  simp [wordOutputs, outputsOf, h]

theorem wordOutputs_cons {i : Instr} (is : List Instr) (s : State) (h : notQuery i = true) :
    wordOutputs (i :: is) s = outputOf i s :: wordOutputs is (resultOf i s) := by
  simp [wordOutputs, outputsOf, h]

/-- In a message without queries every output answers a Word. -/
theorem wordOutputs_msg (ws : List Word) (s : State) : wordOutputs (msg ws) s = outputsOf (msg ws) s := by
  induction ws generalizing s with
  | nil => rfl
  | cons w ws ih => rw [msg_cons, wordOutputs_cons _ _ rfl, ih, outputsOf]

/-- The rest of a message, from any point of its keystream: each Word is answered with the keystream Word it meets, and
the engine ends at the end of a chunk. With no Word left, the engine has to stand at the end of a chunk already. -/
theorem message_answered {x : Words16} {n : Nat} {s : State} {is : List Instr} {ws : List Word}
    (h : AtKeystreamWord x n s) (hend : ws = [] → chunkEnd n = n) (his : is.filter notQuery = msg ws) :
    AtKeystreamWord x (chunkEnd (n + ws.length)) (resultsOf is s) ∧
      wordOutputs is s = (xorKeystream x n ws).map okOutput := by
  induction is generalizing n s ws with
  | nil =>
    obtain rfl : ws = [] := List.eq_nil_of_length_eq_zero (by rw [← msg_length, ← his]; rfl)
    exact ⟨(hend rfl).symm ▸ h, rfl⟩
  | cons i is ih =>
    rw [resultsOf_cons]
    cases hi : notQuery i with
    | false =>
      rw [List.filter_cons_of_neg (by simp [hi])] at his
      rw [wordOutputs_cons_query is s hi]
      exact ih (h.of_sameEngine (sameEngine_resultOf_of_writesNothing (writesNothing_of_query hi s))) hend his
    | true =>
      rw [List.filter_cons_of_pos hi] at his
      rw [wordOutputs_cons is s hi]
      cases ws with
      | nil => exact absurd his nofun
      | cons w us =>
        obtain ⟨rfl, hrest⟩ := List.cons.inj his
        rw [xorKeystream_cons, List.map_cons, h.outputOf_proc]
        cases us with
        | nil =>
          obtain ⟨hat, hout⟩ := ih (h.proc_last w) (fun _ => chunkEnd_chunkEnd _) hrest
          rw [xorKeystream_nil] at hout ⊢
          exact ⟨chunkEnd_chunkEnd (n + 1) ▸ hat, congrArg (List.cons _) hout⟩
        | cons u us =>
          obtain ⟨hat, hout⟩ := ih (ws := u :: us) (h.proc_not_last w) nofun hrest
          have hlen : n + 1 + (u :: us).length = n + (w :: u :: us).length := Nat.succ_add_eq_add_succ n _
          exact ⟨hlen ▸ hat, congrArg (List.cons _) hout⟩

/-- A whole message, queries among it or not, to a keyed engine at pos 0 computes PROCESS over its S (R136). -/
theorem message_computes_process {s : State} {is : List Instr} {ws : List Word} (hk : s.keyed = true)
    (hp : s.pos = 0) (his : is.filter notQuery = msg ws) :
    AtKeystreamWord s.S (chunkEnd ws.length) (resultsOf is s) ∧
      wordOutputs is s = (process s.S ws).1.map okOutput := by
  have h := message_answered (AtKeystreamWord.of_pos_zero hk hp) (fun _ => rfl) his
  rwa [Nat.zero_add, ← process_fst] at h

/-- Settles O41: the PROCs' outputs are those of the message alone, and the queries write nothing. -/
theorem interleavedQueriesDoNotDisturb : Obligations.InterleavedQueriesDoNotDisturb := by
  intro s ws is hk hp _ his hin
  obtain ⟨hat, hout⟩ := message_computes_process hk hp his
  exact ⟨_, outputsOf is s, run_present is [] s (by rw [hin, List.append_nil]), resultsOf_outs is s,
    outputsOf_length is s, hout, hat.S_eq_process, hat.keyed, hat.pos_eq_zero⟩

/-! ### Messages on their own (R136, R137, R139) -/

section Message
variable {s : State} (hk : s.keyed = true) (hp : s.pos = 0) (ws : List Word)
include hk hp

/-- Where a message leaves the engine. -/
theorem atKeystreamWord_msg : AtKeystreamWord s.S (chunkEnd ws.length) (resultsOf (msg ws) s) :=
  (message_computes_process hk hp (filter_notQuery_msg ws)).1

theorem resultsOf_msg_S : (resultsOf (msg ws) s).S = (process s.S ws).2 := (atKeystreamWord_msg hk hp ws).S_eq_process

theorem resultsOf_msg_keyed : (resultsOf (msg ws) s).keyed = true := (atKeystreamWord_msg hk hp ws).keyed

theorem resultsOf_msg_pos : (resultsOf (msg ws) s).pos = 0 := (atKeystreamWord_msg hk hp ws).pos_eq_zero

theorem resultsOf_msg_outs : (resultsOf (msg ws) s).outs = s.outs ++ (process s.S ws).1.map okOutput := by
  rw [resultsOf_outs, ← wordOutputs_msg, (message_computes_process hk hp (filter_notQuery_msg ws)).2]

end Message

/-- Settles O40: a message without queries, run as n steps. -/
theorem messageRefinesProcess : Obligations.MessageRefinesProcess := by
  intro s ws hk hp _ hin
  have hrun := run_present (msg ws) [] s (by rw [hin, List.append_nil])
  rw [msg_length] at hrun
  exact ⟨_, hrun, resultsOf_msg_outs hk hp ws, resultsOf_msg_S hk hp ws, resultsOf_msg_keyed hk hp ws,
    resultsOf_msg_pos hk hp ws, rfl⟩

/-- Settles O43: the second message begins where the first ended, keyed and at pos 0. -/
theorem counterContinuesAcrossMessages : Obligations.CounterContinuesAcrossMessages := by
  intro s us ws hk hp _ _ hin
  have hrun := run_present (msg us ++ msg ws) [] s (by rw [hin, present_append, List.append_nil])
  rw [List.length_append, msg_length, msg_length, resultsOf_append] at hrun
  have hk' := resultsOf_msg_keyed hk hp us
  have hp' := resultsOf_msg_pos hk hp us
  refine ⟨_, hrun, ?_, ?_⟩
  · rw [setInputs_outs, resultsOf_msg_outs hk' hp', resultsOf_msg_outs hk hp, resultsOf_msg_S hk hp]
    rfl
  · simp only [setInputs_S, resultsOf_msg_S hk' hp', resultsOf_msg_S hk hp, process_counter]

/-- Settles O21: RDCTR writes nothing and answers the counter, which INIT sets to 0 and a message moves on. -/
theorem rdctrReturnsTheCounter : Obligations.RdctrReturnsTheCounter := by
  refine ⟨fun s hk => exec_rdctr_keyed hk, fun s hk => exec_rdctr_unkeyed hk, fun _ h => decode_engine_rdctr h,
    fun key nonce s t ht => ?init, fun s ws hk hp _ hin => ?message⟩
  case init =>
    obtain rfl : initEngine key nonce s = t := Host.Outcome.next.inj ht
    exact exec_rdctr_keyed rfl
  case message =>
    have hrun := run_present (msg ws ++ [.rdctr]) [] s (by rw [hin, List.append_nil])
    rw [List.length_append, msg_length, resultsOf_append] at hrun
    refine ⟨_, _, (process s.S ws).2[12], hrun, ?_, (List.length_map okOutput).trans (process_length s.S ws), ?_⟩
    · have hr : resultsOf [.rdctr] (resultsOf (msg ws) s) =
          respond .ok (resultsOf (msg ws) s).S[12] (resultsOf (msg ws) s) :=
        resultOf_rdctr_keyed (resultsOf_msg_keyed hk hp ws)
      rw [hr, setInputs_outs, respond_outs, resultsOf_msg_outs hk hp, resultsOf_msg_S hk hp]
    · rw [process_snd, atCounter_counter_toNat]

theorem okOutput_injective : Function.Injective okOutput := fun _ _ h => (Response.mk.inj (Output.rsp.inj h)).2

/-- A Session's first message: INIT answers OK with data 0, and the message is processed from the constructed state. -/
theorem run_init_msg (key : BitVec 256) (nonce : BitVec 96) {s : State} (ws : List Word)
    (h : s.inputs = present (.init key nonce :: msg ws)) :
    ∃ t, Host.Core.run core (ws.length + 1) s = .next t ∧
      t.outs = s.outs ++ okOutput 0 :: (process (constructedState key nonce) ws).1.map okOutput := by
  have hrun := run_present (.init key nonce :: msg ws) [] s (by rw [h, List.append_nil])
  rw [List.length_cons, msg_length] at hrun
  refine ⟨_, hrun, ?_⟩
  rw [setInputs_outs, resultsOf_cons, resultOf_init, resultsOf_msg_outs rfl rfl, initEngine_outs, initEngine_S,
    List.append_assoc]
  rfl

/-- Settles O42: the first engine's answers are PROCESS of the plaintext over the constructed state, which the second
engine constructs as well, and there PROCESS undoes itself. -/
theorem decryptionReturnsThePlaintext : Obligations.DecryptionReturnsThePlaintext := by
  intro key nonce s s' t plain cipher _ hin hrun houts hin'
  obtain ⟨u, hu, huouts⟩ := run_init_msg key nonce plain hin
  obtain rfl : u = t := Host.Outcome.next.inj (hu.symm.trans hrun)
  have hcipher : cipher = (process (constructedState key nonce) plain).1 := by
    have htail := List.append_cancel_left (houts.symm.trans huouts)
    exact okOutput_injective.list_map (List.cons.inj htail).2
  obtain ⟨t', ht', houts'⟩ := run_init_msg key nonce cipher hin'
  have hlen : cipher.length = plain.length := by rw [hcipher, process_length]
  refine ⟨t', hlen ▸ ht', ?_⟩
  rw [houts', hcipher, processIsSelfInverse]
  rfl

end Sys2Proof.Machine
end

section
/-! PROOF. Errors (60_exceptions): which command gets which status (R161 to R164), what an error leaves unchanged (R165),
and that no output given before is ever read (R172). -/

namespace Sys2Proof.Machine

/-! ### The response of one operation -/

/-- When an operation's next state shows one response more, that response is the operation's output. -/
theorem outputOf_eq_of_exec {i : Instr} {s t : State} {r : Response} (h : exec i s = .next t)
    (ho : t.outs = s.outs ++ [.rsp r]) : outputOf i s = .rsp r := by
  obtain rfl : resultOf i s = t := Host.Outcome.next.inj ((exec_eq_next i s).symm.trans h)
  exact List.head_eq_of_cons_eq (List.append_cancel_left ((resultOf_outs i s).symm.trans ho))

/-- Settles O28: `keyed` is tested first, and the failing command only gives its response. -/
theorem notInitUntilFirstInit : Obligations.NotInitUntilFirstInit :=
  fun data last _ hk => ⟨exec_proc_unkeyed data last hk, exec_rdctr_unkeyed hk⟩

/-- Settles O26: the response is known for INIT, for PROC and RDCTR with and without a key, and for the reserved code. -/
theorem errorsAreExactlyTheseTwo : Obligations.ErrorsAreExactlyTheseTwo := by
  intro c s t r h ho
  have hr := outputOf_eq_of_exec h ho
  rcases command_cases c with hop | hop | hop
  case inl =>
    rw [decode_engine_init hop] at hr
    obtain rfl := Output.rsp.inj hr
    simp [hop]
  case inr.inl =>
    rcases Bool.eq_false_or_eq_true s.keyed with hk | hk
    · obtain ⟨y, hy⟩ := outputOf_engine_keyed hop hk
      obtain rfl := Output.rsp.inj (hy.symm.trans hr)
      rcases hop with hop | hop <;> simp [hop, hk]
    · obtain rfl := Output.rsp.inj ((outputOf_engine_unkeyed hop hk).symm.trans hr)
      rcases hop with hop | hop <;> simp [hop, hk]
  case inr.inr =>
    rw [decode_engine_rsvd hop] at hr
    obtain rfl := Output.rsp.inj hr
    simp [hop]

/-! ### An error changes no state (R165) -/

/-- An operation answered with an error is one that writes nothing: INIT and a keyed PROC are answered OK. -/
theorem writesNothing_of_error {i : Instr} {s : State} {r : Response} (h : outputOf i s = .rsp r)
    (he : r.status ≠ .ok) : WritesNothing i s := by
  rcases operation_cases i s with ⟨key, nonce, rfl⟩ | ⟨data, last, rfl, hk⟩ | hw
  · obtain rfl := Output.rsp.inj h
    exact absurd rfl he
  · obtain rfl := Output.rsp.inj ((outputOf_proc_keyed data last hk).symm.trans h)
    exact absurd rfl he
  · exact hw

/-- The errors are raised by PROC, RDCTR and the reserved code, each with data 0 (R161). -/
theorem data_eq_zero_of_error {i : Instr} {s : State} {r : Response} (h : outputOf i s = .rsp r)
    (he : r.status ≠ .ok) : r.data = 0x00000000#32 := by
  cases i with
  | init key nonce =>
    obtain rfl := Output.rsp.inj h
    rfl
  | proc | rdctr =>
    rw [outputOf] at h
    split at h
    · obtain rfl := Output.rsp.inj h
      exact absurd rfl he
    · obtain rfl := Output.rsp.inj h
      rfl
  | rsvd =>
    obtain rfl := Output.rsp.inj h
    rfl
  | _ => cases h

/-- Settles O27: the operation writes nothing, so its next state is the old one with the response given. -/
theorem errorsChangeNoState : Obligations.ErrorsChangeNoState := by
  intro i s t r h ho he
  have hr := outputOf_eq_of_exec h ho
  have hw := writesNothing_of_error hr he
  obtain rfl := Host.Outcome.next.inj ((exec_of_writesNothing hw).symm.trans h)
  exact ⟨data_eq_zero_of_error hr he, by rw [hr]; rfl⟩

/-! ### Earlier outputs are never read (R172) -/

/-- The same state with other outputs given before its own. -/
def withEarlier (earlier : List Output) (s : State) : State := { s with outs := earlier ++ s.outs }

theorem resultOf_withEarlier (earlier : List Output) (i : Instr) (s : State) :
    resultOf i (withEarlier earlier s) = withEarlier earlier (resultOf i s) := by
  calc resultOf i (withEarlier earlier s)
    _ = withLines s.inputs (earlier ++ s.outs ++ [outputOf i s]) (resultOf i s) :=
        resultOf_withLines i s s.inputs (earlier ++ s.outs)
    _ = withLines (resultOf i s).inputs (earlier ++ (resultOf i s).outs) (resultOf i s) := by
        rw [resultOf_inputs, resultOf_outs, List.append_assoc]

theorem afterEvent_withEarlier (earlier : List Output) (e : Event) (s : State) :
    afterEvent e (withEarlier earlier s) = withEarlier earlier (afterEvent e s) := by
  cases e with
  | present p => exact resultOf_withEarlier earlier (decode p) s
  | _ => rfl

theorem step_withEarlier (earlier : List Output) {s t : State} (h : step s = .next t) :
    step (withEarlier earlier s) = .next (withEarlier earlier t) := by
  rcases hi : s.inputs with _ | ⟨e, rest⟩
  · obtain rfl := Host.Outcome.next.inj ((step_of_inputs_nil hi).symm.trans h)
    exact step_of_inputs_nil hi
  · obtain rfl := Host.Outcome.next.inj ((step_of_inputs_cons hi).symm.trans h)
    rw [← afterEvent_withEarlier]
    exact step_of_inputs_cons hi

theorem run_withEarlier (n : Nat) (earlier : List Output) {s t : State} (h : Host.Core.run core n s = .next t) :
    Host.Core.run core n (withEarlier earlier s) = .next (withEarlier earlier t) := by
  induction n generalizing s with
  | zero =>
    obtain rfl : s = t := Host.Outcome.next.inj h
    rfl
  | succ n ih =>
    obtain ⟨u, hu, hrun⟩ := run_succ_inv h
    rw [run_succ n (step_withEarlier earlier hu)]
    exact ih hrun

/-- Settles O29, by induction over the steps: each one leaves the earlier outputs in front. -/
theorem earlierOutputsAreNeverRead : Obligations.EarlierOutputsAreNeverRead :=
  fun n earlier _ _ h => run_withEarlier n earlier h

end Sys2Proof.Machine
end

section
/-! PROOF. Reset and hazards (70_reset_and_hazards): what a reset leaves at the transaction level and at a clock edge
(R180), that it abandons the command in flight (R181), and that no state is stuck (R191). -/

namespace Sys2Proof.Machine

/-! ### No state is stuck (R191) -/

/-- Every state has a step: with no event the engine idles, and acting on an event always has a result. -/
theorem exists_step (s : State) : ∃ t, step s = .next t := by
  rcases hi : s.inputs with _ | ⟨e, rest⟩
  · exact ⟨s, step_of_inputs_nil hi⟩
  · exact ⟨_, step_of_inputs_cons hi⟩

/-- Settles O30: INIT leaves a keyed engine, on which PROC and RDCTR answer OK. -/
theorem noStateIsStuck : Obligations.NoStateIsStuck := by
  refine ⟨exists_step, fun key nonce s t ht => ?_⟩
  have hk : t.keyed = true := by
    obtain rfl : initEngine key nonce s = t := Host.Outcome.next.inj ht
    exact initEngine_keyed key nonce s
  exact ⟨fun data last => ⟨_, _, exec_proc_keyed data last hk, procWord_outs data last t⟩,
    _, _, exec_rdctr_keyed hk, respond_outs .ok t.S[12] t⟩

/-! ### Reset as an event (R180, R181) -/

/-- Settles O44: the step is `resetEngine`, which gives no output and takes no further event. -/
theorem resetLeavesTheEngineUnkeyed : Obligations.ResetLeavesTheEngineUnkeyed :=
  ⟨fun s rest hi => ⟨_, step_of_inputs_cons hi, resetEngine_keyed _, resetEngine_pos _,
    resetEngine_outs (setInputs rest s), resetEngine_inputs (setInputs rest s)⟩, rfl, rfl⟩

/-- Acting on a reset with a command in flight is acting on the reset alone, whatever the command (R181). -/
theorem afterEvent_resetInFlight (c : Command) (s : State) :
    afterEvent (.resetInFlight c) s = afterEvent .reset s := rfl

/-- The event at the head of the line is acted on with the rest of the line behind it. -/
theorem step_setInputs_cons (e : Event) (rest : List Event) (s : State) :
    step (setInputs (e :: rest) s) = .next (afterEvent e (setInputs rest s)) :=
  step_of_inputs_cons (setInputs_inputs (e :: rest) s)

/-- Settles O45: both steps take their event from the same line, and act on it alike. -/
theorem abandonedCommandHasNoEffect : Obligations.AbandonedCommandHasNoEffect := by
  intro c s rest
  calc step (setInputs (.resetInFlight c :: rest) s)
    _ = .next (afterEvent (.resetInFlight c) (setInputs rest s)) := step_setInputs_cons ..
    _ = .next (afterEvent .reset (setInputs rest s)) := by rw [afterEvent_resetInFlight]
    _ = step (setInputs (.reset :: rest) s) := (step_setInputs_cons ..).symm

/-! ### Reset at a clock edge (R180, R181) -/

theorem cmdReady_of_reset {p : Pins} (c : ClockState) (h : p.rst = true) : cmdReady p c = false := by
  simp [cmdReady, h]

theorem rspPins_of_reset {p : Pins} (c : ClockState) (h : p.rst = true) : rspPins p c = none := by
  simp [rspPins, h]

/-- Settles O51: `rst` silences the pins in its own cycle, and its edge leaves the engine reset with nothing in flight. -/
theorem resetEdgeAbandonsTheCommand : Obligations.ResetEdgeAbandonsTheCommand := by
  intro lat p q c hp hq
  exact ⟨cmdReady_of_reset c hp, rspPins_of_reset c hp, _, clockEdge_reset lat c hp, resetEngine_keyed c.st,
    resetEngine_pos c.st, resetEngine_outs c.st, rfl, cmdReady_of_idle hq rfl, rspPins_of_idle q rfl⟩

end Sys2Proof.Machine
end
